-- ==== Sys2Proof/Word.lean ====
section
/-! DEFINITION. The word types of the block: the widths of `00_scope.md` rule R8 and `30_encoding.md` rules R100, R104.
What is computed from them (pages, zones, blocks, sums) stands in Machine/Operands.lean. -/

namespace Sys2Proof

/-- The unit of every access: one byte (R8). -/
abbrev Byte := BitVec 8

/-- A CPU address (R8, R60). -/
abbrev CpuAddr := BitVec 16

/-- A linear address (R8, R60): 28 bits, 256 MiB. -/
abbrev LinAddr := BitVec 28

/-- The address field of the linear operations, four bits wider than the linear space, so that an address outside it can
be presented and caught (R60, R111). -/
abbrev WideAddr := BitVec 32

/-- The CPU's program counter as it comes with a request: context for error reports only (R21). -/
abbrev CpuPc := BitVec 16

/-- The number of a 256-byte CPU page (R13). -/
abbrev PageNo := BitVec 8

/-- A 4 KiB zone of the CPU space, 0 to 15 (R13). -/
abbrev Zone := BitVec 4

/-- An 8 KiB block of the CPU space, 0 to 7 (R13). -/
abbrev Block := BitVec 3

/-- The code of a chip-register layout (R26). -/
abbrev Layout := BitVec 2

/-- A local address inside a chip-register window (R60). -/
abbrev IoLocal := BitVec 12

/-- The choice of the interactive prompt (R106). -/
abbrev Choice := BitVec 2

/-- A request word (R100). -/
abbrev Request := BitVec 64

/-- A response word (R104). -/
abbrev Response := BitVec 16

end Sys2Proof
end

