-- ==== Sys2Proof/Syntax.lean ====
section
/-! DEFINITION. The twenty operations of `30_encoding.md` rule R102, one constructor per row of the opcode table, with the
operands their formats give them (R110 to R114). `pc` is `req.pc`, which the access operations carry into error reports
(R21); the configuration operations report nothing and carry none. -/

namespace Sys2Proof

/-- Which of the two port registers `PORT_WRITE` and the zero-page writer write: `sel = 0` is `port_ddr`, `sel = 1` is
`port_data` (R112, R246). -/
inductive PortReg where
  /-- the direction register, CPU address `$0000` -/
  | ddr
  /-- the data register, CPU address `$0001` -/
  | data
deriving DecidableEq, Repr

/-- An operation with its operands. -/
inductive Instr where
  /-- `CPU_READ addr16` (R241) -/
  | cpuRead (addr : CpuAddr) (pc : CpuPc)
  /-- `CPU_WRITE addr16, data` (R242) -/
  | cpuWrite (addr : CpuAddr) (data : Byte) (pc : CpuPc)
  /-- `FLAT_READ addr32` (R249) -/
  | flatRead (addr : WideAddr) (pc : CpuPc)
  /-- `FLAT_WRITE addr32, data` (R250) -/
  | flatWrite (addr : WideAddr) (data : Byte) (pc : CpuPc)
  /-- `DMA_LIST_READ addr32` (R261) -/
  | dmaListRead (addr : WideAddr) (pc : CpuPc)
  /-- `DMA_SRC_READ addr32` (R262) -/
  | dmaSrcRead (addr : WideAddr) (pc : CpuPc)
  /-- `DMA_SRC_WRITE addr32, data` (R263) -/
  | dmaSrcWrite (addr : WideAddr) (data : Byte) (pc : CpuPc)
  /-- `DMA_TGT_READ addr32` (R264) -/
  | dmaTgtRead (addr : WideAddr) (pc : CpuPc)
  /-- `DMA_TGT_WRITE addr32, data` (R265) -/
  | dmaTgtWrite (addr : WideAddr) (data : Byte) (pc : CpuPc)
  /-- `DBG_LIN_READ addr32` (R271) -/
  | dbgLinRead (addr : WideAddr) (pc : CpuPc)
  /-- `DBG_LIN_WRITE addr32, data` (R272) -/
  | dbgLinWrite (addr : WideAddr) (data : Byte) (pc : CpuPc)
  /-- `DBG_CPU_READ addr16` (R273) -/
  | dbgCpuRead (addr : CpuAddr) (pc : CpuPc)
  /-- `DBG_CPU_WRITE addr16, data` (R274) -/
  | dbgCpuWrite (addr : CpuAddr) (data : Byte) (pc : CpuPc)
  /-- `PORT_WRITE sel, data` (R170) -/
  | portWrite (sel : PortReg) (data : Byte)
  /-- `ROMSEL_WRITE data` (R172) -/
  | romselWrite (romvis : BitVec 4)
  /-- `MAP_APPLY a, x, y, z` (R195) -/
  | mapApply (a x y z : Byte)
  /-- `MAP_COMMIT` (R199) -/
  | mapCommit
  /-- `PRIV_SET p` (R175) -/
  | privSet (p : Bool)
  /-- `LAYOUT_SET l` (R178) -/
  | layoutSet (layout : Layout)
  /-- `ROMWP_SET w` (R180) -/
  | romwpSet (wp : Bool)
deriving DecidableEq, Repr

end Sys2Proof
end

