-- ==== Sys2Proof/WellFormed.lean ====
section
/-! DEFINITION. Which operations and which opcodes are well formed. Every value of every operand of a legal operation is
legal (R116), and the operands' types have exactly the widths of their fields, so a term of `Instr` has nothing left to
check; what can be ill formed is a request: its opcode (R103, R115). -/

namespace Sys2Proof

/-- The opcodes of the table of `30_encoding.md` rule R102. -/
def legalOpcodes : List Byte :=
  [0x10#8, 0x11#8, 0x12#8, 0x13#8] ++ [0x20#8, 0x22#8, 0x23#8, 0x24#8, 0x25#8] ++ [0x30#8, 0x31#8, 0x32#8, 0x33#8]
    ++ [0x40#8, 0x41#8, 0x42#8, 0x43#8, 0x44#8, 0x45#8, 0x46#8]

/-- The opcode is in the table; the other 236 values are illegal operations (R103, R115). -/
def legalOpcode (op : Byte) : Bool := legalOpcodes.contains op

/-- The opcode that `30_encoding.md` rule R102 gives each operation. -/
def Instr.opcode : Instr → Byte
  | .cpuRead _ _ => 0x10#8
  | .cpuWrite _ _ _ => 0x11#8
  | .flatRead _ _ => 0x12#8
  | .flatWrite _ _ _ => 0x13#8
  | .dmaListRead _ _ => 0x20#8
  | .dmaSrcRead _ _ => 0x22#8
  | .dmaSrcWrite _ _ _ => 0x23#8
  | .dmaTgtRead _ _ => 0x24#8
  | .dmaTgtWrite _ _ _ => 0x25#8
  | .dbgLinRead _ _ => 0x30#8
  | .dbgLinWrite _ _ _ => 0x31#8
  | .dbgCpuRead _ _ => 0x32#8
  | .dbgCpuWrite _ _ _ => 0x33#8
  | .portWrite _ _ => 0x40#8
  | .romselWrite _ => 0x41#8
  | .mapApply _ _ _ _ => 0x42#8
  | .mapCommit => 0x43#8
  | .privSet _ => 0x44#8
  | .layoutSet _ => 0x45#8
  | .romwpSet _ => 0x46#8

/-- A well-formed operation: one whose opcode the table has. No operand value is ruled out (R116). -/
def Instr.wellFormed (i : Instr) : Bool := legalOpcode i.opcode

end Sys2Proof
end

