-- ==== Sys2Proof/Decode.lean ====
section
/-! DEFINITION. The decoder and the encoder of request words (`30_encoding.md` rules R100 to R103, R110 to R115). -/

namespace Sys2Proof

/-- `req.op`, bits 63:56 (R100). -/
def reqOp (w : Request) : Byte := w.extractLsb' 56 8

/-- `req.data`, bits 55:48 (R100). -/
def reqData (w : Request) : Byte := w.extractLsb' 48 8

/-- `req.pc`, bits 47:32 (R100). -/
def reqPc (w : Request) : CpuPc := w.extractLsb' 32 16

/-- `req.arg`, bits 31:0 (R100). -/
def reqArg (w : Request) : WideAddr := w.extractLsb' 0 32

/-- `addr16 = req.arg[15:0]` of format A (R110). -/
def reqAddr16 (w : Request) : CpuAddr := (reqArg w).extractLsb' 0 16

/-- `sel = req.arg[0]` of `PORT_WRITE` (R112). -/
def reqSel (w : Request) : PortReg := if (reqArg w).getLsbD 0 then .data else .ddr

/-- Byte `k` of `req.arg`: `a`, `x`, `y`, `z` of format M for `k` = 0, 1, 2, 3 (R113). -/
def reqArgByte (k : Nat) (w : Request) : Byte := (reqArg w).extractLsb' (8 * k) 8

/-- Why a request is not decoded. -/
inductive DecodeError where
  /-- `req.op` is not in the table of R102: an illegal operation (R115) -/
  | illegalOp (op : Byte)
deriving DecidableEq, Repr

/-- Decoding is total and looks at `req.op` alone (R103); the operation's format says which other fields are read, and
every other bit of the word is ignored (R101). -/
def decode (w : Request) : Except DecodeError Instr :=
  match (reqOp w).toNat with
  | 0x10 => .ok (.cpuRead (reqAddr16 w) (reqPc w))
  | 0x11 => .ok (.cpuWrite (reqAddr16 w) (reqData w) (reqPc w))
  | 0x12 => .ok (.flatRead (reqArg w) (reqPc w))
  | 0x13 => .ok (.flatWrite (reqArg w) (reqData w) (reqPc w))
  | 0x20 => .ok (.dmaListRead (reqArg w) (reqPc w))
  | 0x22 => .ok (.dmaSrcRead (reqArg w) (reqPc w))
  | 0x23 => .ok (.dmaSrcWrite (reqArg w) (reqData w) (reqPc w))
  | 0x24 => .ok (.dmaTgtRead (reqArg w) (reqPc w))
  | 0x25 => .ok (.dmaTgtWrite (reqArg w) (reqData w) (reqPc w))
  | 0x30 => .ok (.dbgLinRead (reqArg w) (reqPc w))
  | 0x31 => .ok (.dbgLinWrite (reqArg w) (reqData w) (reqPc w))
  | 0x32 => .ok (.dbgCpuRead (reqAddr16 w) (reqPc w))
  | 0x33 => .ok (.dbgCpuWrite (reqAddr16 w) (reqData w) (reqPc w))
  | 0x40 => .ok (.portWrite (reqSel w) (reqData w))
  | 0x41 => .ok (.romselWrite ((reqData w).extractLsb' 0 4))
  | 0x42 => .ok (.mapApply (reqArgByte 0 w) (reqArgByte 1 w) (reqArgByte 2 w) (reqArgByte 3 w))
  | 0x43 => .ok .mapCommit
  | 0x44 => .ok (.privSet ((reqData w).getLsbD 0))
  | 0x45 => .ok (.layoutSet ((reqData w).extractLsb' 0 2))
  | 0x46 => .ok (.romwpSet ((reqData w).getLsbD 0))
  | _ => .error (.illegalOp (reqOp w))

/-- A request word from its four fields (R100, R120). -/
def requestWord (op data : Byte) (pc : CpuPc) (arg : WideAddr) : Request := op ++ data ++ pc ++ arg

/-- A `req.arg` that holds a 16-bit address, the ignored bits zero (R110). -/
def argOfAddr16 (a : CpuAddr) : WideAddr := 0#16 ++ a

/-- A `req.arg` that holds a port selector, the ignored bits zero (R112). -/
def argOfSel : PortReg → WideAddr
  | .ddr => 0#32
  | .data => 1#32

/-- One bit in the low bit of a byte, the ignored bits zero (R112). -/
def byteOfBit (b : Bool) : Byte := 0#7 ++ BitVec.ofBool b

/-- The request word of an operation, with zeros in every bit its format ignores (R100, R102, R110 to R114). The fields an
operation's format does not use, `req.pc` of a configuration operation among them, are written as zero. -/
def encode (i : Instr) : Request :=
  match i with
  | .cpuRead a pc => requestWord i.opcode 0#8 pc (argOfAddr16 a)
  | .cpuWrite a v pc => requestWord i.opcode v pc (argOfAddr16 a)
  | .flatRead a pc => requestWord i.opcode 0#8 pc a
  | .flatWrite a v pc => requestWord i.opcode v pc a
  | .dmaListRead a pc => requestWord i.opcode 0#8 pc a
  | .dmaSrcRead a pc => requestWord i.opcode 0#8 pc a
  | .dmaSrcWrite a v pc => requestWord i.opcode v pc a
  | .dmaTgtRead a pc => requestWord i.opcode 0#8 pc a
  | .dmaTgtWrite a v pc => requestWord i.opcode v pc a
  | .dbgLinRead a pc => requestWord i.opcode 0#8 pc a
  | .dbgLinWrite a v pc => requestWord i.opcode v pc a
  | .dbgCpuRead a pc => requestWord i.opcode 0#8 pc (argOfAddr16 a)
  | .dbgCpuWrite a v pc => requestWord i.opcode v pc (argOfAddr16 a)
  | .portWrite sel v => requestWord i.opcode v 0#16 (argOfSel sel)
  | .romselWrite rv => requestWord i.opcode (0#4 ++ rv) 0#16 0#32
  | .mapApply a x y z => requestWord i.opcode 0#8 0#16 (z ++ y ++ x ++ a)
  | .mapCommit => requestWord i.opcode 0#8 0#16 0#32
  | .privSet p => requestWord i.opcode (byteOfBit p) 0#16 0#32
  | .layoutSet l => requestWord i.opcode (0#6 ++ l) 0#16 0#32
  | .romwpSet wp => requestWord i.opcode (byteOfBit wp) 0#16 0#32

/-- The bits of a request that the format of its opcode reads, `req.op` among them (R101, R110 to R114); `req.pc` is read by
the access operations, which carry it into error reports (R21). An illegal operation reads `req.op` alone. -/
def formatBits (op : Byte) : Request :=
  match op.toNat with
  | 0x10 | 0x32 => 0xFF00FFFF0000FFFF#64
  | 0x11 | 0x33 => 0xFFFFFFFF0000FFFF#64
  | 0x12 | 0x20 | 0x22 | 0x24 | 0x30 => 0xFF00FFFFFFFFFFFF#64
  | 0x13 | 0x23 | 0x25 | 0x31 => 0xFFFFFFFFFFFFFFFF#64
  | 0x40 => 0xFFFF000000000001#64
  | 0x41 => 0xFF0F000000000000#64
  | 0x42 => 0xFF000000FFFFFFFF#64
  | 0x44 | 0x46 => 0xFF01000000000000#64
  | 0x45 => 0xFF03000000000000#64
  | _ => 0xFF00000000000000#64

/-- What the decoder reads from an instruction whose bits are `w`. A request is one 64-bit word, so bit 0 of the word is
bit 0 of `w`; bits from `nbits` up are zero. -/
def decodeTableWord (nbits w : Nat) : Option Instr :=
  match decode (BitVec.ofNat 64 (w % 2 ^ nbits)) with
  | .ok i => some i
  | .error _ => none

end Sys2Proof
end

