-- ==== Sys2Proof/Config.lean ====
section
/-! DEFINITION. What an instantiation of the block fixes, and what the spec leaves open. The types of the three named
parameters of `00_scope.md` rule R9 (`REGION_TABLE`, `BANK_TABLE`, `MAP_DECODE`) stand here; their default instances stand
in Machine/Tables.lean. The free values (the power-on contents of the store, the dispatcher's answers, the prompt's
choices) are constants without a body: nothing can be proved of what they are. -/

namespace Sys2Proof

/-- The closed enumeration of region kinds (R62, `20_memory.md`). -/
inductive RegionKind where
  | mainRam
  | sharedRam
  | shadowRom
  | colourRam
  | auxRam
  | privRam
  | diskBuffer
  | io
  | cartridge
  | unmapped
deriving DecidableEq, Repr

/-- One entry of `REGION_TABLE`: first and last linear address, both included, and the kind (R61). The bounds are natural
numbers, so that a table that breaks the invariants can be written down and refused by the self-check. -/
structure Region where
  start : Nat
  stop : Nat
  kind : RegionKind
deriving DecidableEq, Repr

/-- What the bank policy gives one zone (R163): the RAM at the same addresses, a part of the ROM image that starts at the
linear address `base`, or the chip-register window. A shadow base exists exactly for `shadowRom` (R164(c)). -/
inductive BankEntry where
  | ram
  | shadowRom (base : LinAddr)
  | legacyIo
deriving DecidableEq, Repr

/-- MapConfig (R28, `10_state.md`). -/
structure MapConfig where
  mbLow : Byte
  offLow : BitVec 20
  mbHigh : Byte
  offHigh : BitVec 20
  mask : Byte
deriving DecidableEq, Repr

/-- The named parameters of the block (R9, R36): immutable, not state. `bankTable` is asked for zones 8 to 15 only. -/
structure Params where
  regionTable : List Region
  bankTable : BitVec 3 → BitVec 4 → Zone → BankEntry
  mapDecode : Byte → Byte → Byte → Byte → MapConfig → MapConfig

/-- Why a block is halted (R35). -/
inductive HaltReason where
  /-- ConfigurationError at reset (R281) -/
  | config
  /-- ImpossibleAddress (R282) -/
  | impossible
  /-- UnmappedAccess answered with abort (R284) -/
  | abort
deriving DecidableEq, Repr

/-- What crosses the block's boundary, as `20_memory.md` rule R86 lists it. -/
inductive Event where
  /-- a request word presented to the block (R100) -/
  | request (w : Request)
  /-- the response word that ended an operation (R104) -/
  | response (r : Response)
  /-- a call of the dispatcher and the byte it answered (R76) -/
  | ioRead (layout : Layout) (addr : IoLocal) (answer : Byte)
  /-- a byte sent to the dispatcher (R76) -/
  | ioWrite (layout : Layout) (addr : IoLocal) (v : Byte)
  /-- an UnmappedAccess report and the choice that answered it (R284) -/
  | unmappedReport (addr : LinAddr) (pc : CpuPc) (isWrite : Bool) (choice : Choice)
  /-- a halt with its reason, address and program counter (R280) -/
  | halt (reason : HaltReason) (addr : WideAddr) (pc : CpuPc)
deriving DecidableEq, Repr

/-- FREE VALUE (`mem_init`, R9, R33, R313; U8): what a byte of the backing store holds at power-on. -/
opaque Config.memInit : Nat → Byte

/-- FREE VALUE (R76; U9): what the dispatcher answers to an `IoRead`, after all that has crossed the boundary so far. -/
opaque Config.ioAnswer : List Event → Layout → IoLocal → Byte

/-- FREE VALUE (R284, R286; U10): what the prompt answers to an UnmappedAccess report, after all that has crossed the
boundary so far. -/
opaque Config.promptChoice : List Event → LinAddr → CpuPc → Bool → Choice

end Sys2Proof
end

