-- ==== Sys2Proof/Machine/Assoc.lean ====
section
/-! DEFINITION. Sparse storage: a list of (key, value) pairs in one canonical form, keys strictly rising. The backing store
(R33) and the page slots (R30) are held in it; a key that is not listed has no value. -/

namespace Sys2Proof.Machine

/-- The value listed at key `k`, if any. -/
def assocGet {α : Type} (k : Nat) : List (Nat × α) → Option α
  | [] => none
  | e :: rest => if e.1 = k then some e.2 else assocGet k rest

/-- List `v` at key `k`, in order, in place of what was listed there. -/
def assocPut {α : Type} (k : Nat) (v : α) : List (Nat × α) → List (Nat × α)
  | [] => [(k, v)]
  | e :: rest =>
    if k < e.1 then (k, v) :: e :: rest
    else if k = e.1 then (k, v) :: rest
    else e :: assocPut k v rest

/-- Unlist every pair that `sel` selects. -/
def assocDrop {α : Type} (sel : Nat → α → Bool) (m : List (Nat × α)) : List (Nat × α) :=
  m.filter fun e => !sel e.1 e.2

/-- Every key of the list is at least `lo`, and keys rise strictly. -/
def assocRisingFrom {α : Type} : Nat → List (Nat × α) → Bool
  | _, [] => true
  | lo, e :: rest => decide (lo ≤ e.1) && assocRisingFrom (e.1 + 1) rest

/-- The canonical form: keys strictly rising. -/
def assocRising {α : Type} (m : List (Nat × α)) : Bool := assocRisingFrom 0 m

end Sys2Proof.Machine
end

