-- ==== Sys2Proof/Machine/Regions.lean ====
section
/-! DEFINITION. The region map (`20_memory.md` rules R61 to R66, R70): lookup of a linear address, the fold of the shared
window onto colour RAM, and the self-check of the table (R311). Every function takes the table as an argument. -/

namespace Sys2Proof.Machine

/-- The kinds whose regions hold bytes of the backing store (R62). -/
def storageBacked : RegionKind → Bool
  | .mainRam => true
  | .sharedRam => true
  | .shadowRom => true
  | .colourRam => true
  | .auxRam => true
  | .privRam => true
  | .diskBuffer => true
  | .io => false
  | .cartridge => false
  | .unmapped => false

/-- The entry claims the address (R66). -/
def regionClaims (r : Region) (l : Nat) : Bool := decide (r.start ≤ l) && decide (l ≤ r.stop)

/-- `Region(l)` for an address below 2^28 (R66): the entry that claims it. A table that passes its self-check always has
one; in a gap of any other table, with which no block runs, there is no backing device (log entry 8). -/
def regionOf (table : List Region) (l : Nat) : Region :=
  (table.find? fun r => regionClaims r l).getD { start := l, stop := l, kind := .unmapped }

/-- `Kind(l)` (R66). -/
def kindAt (table : List Region) (l : Nat) : RegionKind := (regionOf table l).kind

/-- The start of the one entry of a kind: the names `SHARED_BASE`, `COLOUR_BASE`, `IO_BASE` of R64. -/
def baseOfKind (table : List Region) (k : RegionKind) : Nat :=
  ((table.find? fun r => decide (r.kind = k)).map Region.start).getD 0

/-- `Canon(l)` (R70): the shared window has no bytes of its own. -/
def canon (table : List Region) (l : Nat) : Nat :=
  if kindAt table l = .sharedRam then
    baseOfKind table .colourRam + (l - baseOfKind table .sharedRam)
  else l

/-- A canonical storage address (R33): the only addresses of the backing store that are ever read or written. -/
def canonicalStorage (table : List Region) (l : Nat) : Bool :=
  decide (l < 2 ^ 28) && storageBacked (kindAt table l) && decide (kindAt table l ≠ .sharedRam)

/-- R63: the table is not empty. -/
def tableNonEmpty (table : List Region) : Bool := !table.isEmpty

/-- R63: the first entry starts at 0. -/
def tableStartsAtZero : List Region → Bool
  | [] => false
  | r :: _ => decide (r.start = 0)

/-- R63: the last entry ends at the top of the linear space. -/
def tableEndsAtTop : List Region → Bool
  | [] => false
  | [r] => decide (r.stop = 0xFFFFFFF)
  | _ :: rest => tableEndsAtTop rest

/-- R63: no entry ends before it starts. -/
def tableOrdered (table : List Region) : Bool := table.all fun r => decide (r.start ≤ r.stop)

/-- R63: every entry but the first starts right after the one before it. -/
def tableContiguous : List Region → Bool
  | [] => true
  | [_] => true
  | a :: b :: rest => decide (b.start = a.stop + 1) && tableContiguous (b :: rest)

/-- R64(a): no 256-byte page straddles two regions. -/
def tablePageAligned (table : List Region) : Bool :=
  table.all fun r => decide (r.start % 256 = 0) && decide (r.stop % 256 = 255)

/-- The entries of one kind. -/
def entriesOfKind (table : List Region) (k : RegionKind) : List Region := table.filter fun r => decide (r.kind = k)

/-- How many bytes an entry claims. -/
def regionSize (r : Region) : Nat := r.stop + 1 - r.start

/-- R64(b): exactly one shared window, of 0x800 bytes. -/
def tableOneShared (table : List Region) : Bool :=
  match entriesOfKind table .sharedRam with
  | [r] => decide (regionSize r = 0x800)
  | _ => false

/-- R64(c): exactly one colour RAM, of at least 0x800 bytes. -/
def tableOneColour (table : List Region) : Bool :=
  match entriesOfKind table .colourRam with
  | [r] => decide (0x800 ≤ regionSize r)
  | _ => false

/-- R64(d): exactly one I/O region, of 0x4000 bytes, at a multiple of 0x4000. -/
def tableOneIo (table : List Region) : Bool :=
  match entriesOfKind table .io with
  | [r] => decide (regionSize r = 0x4000) && decide (r.start % 0x4000 = 0)
  | _ => false

/-- R64(e): no I/O region below 0x10000, and linear page 0 is main RAM. -/
def tableLowPages (table : List Region) : Bool :=
  ((entriesOfKind table .io).all fun r => decide (0x10000 ≤ r.start)) &&
    decide (kindAt table 0 = .mainRam) && decide (kindAt table 255 = .mainRam)

/-- `SelfCheck()` (R311): every invariant of R63 and R64. -/
def selfCheck (table : List Region) : Bool :=
  tableNonEmpty table && tableStartsAtZero table && tableEndsAtTop table && tableOrdered table && tableContiguous table &&
    tablePageAligned table && tableOneShared table && tableOneColour table && tableOneIo table && tableLowPages table

end Sys2Proof.Machine
end

