-- ==== Sys2Proof/Machine/Tables.lean ====
section
/-! DEFINITION. The default instances of the three named parameters (R65, R165, R192), the second instance of `MAP_DECODE`
that the spec records (U3), and the invariants the spec puts on every instance (R164, R191). The machine that `exec` and
`step` run is the one of the defaults (log entries 5, 6, 7). -/

namespace Sys2Proof.Machine

/-- The default `REGION_TABLE`, rows 0 to 7 of R65. -/
def regionTableLow : List Region :=
  [ { start := 0x0000000, stop := 0x001F7FF, kind := .mainRam },
    { start := 0x001F800, stop := 0x001FFFF, kind := .sharedRam },
    { start := 0x0020000, stop := 0x003FFFF, kind := .shadowRom },
    { start := 0x0040000, stop := 0x005FFFF, kind := .mainRam },
    { start := 0x0060000, stop := 0x3FFFFFF, kind := .unmapped },
    { start := 0x4000000, stop := 0x7FFFFFF, kind := .cartridge },
    { start := 0x8000000, stop := 0x87FFFFF, kind := .auxRam },
    { start := 0x8800000, stop := 0xFF7FFFF, kind := .unmapped } ]

/-- The default `REGION_TABLE`, rows 8 to 15 of R65. -/
def regionTableHigh : List Region :=
  [ { start := 0xFF80000, stop := 0xFF87FFF, kind := .colourRam },
    { start := 0xFF88000, stop := 0xFFCFFFF, kind := .unmapped },
    { start := 0xFFD0000, stop := 0xFFD3FFF, kind := .io },
    { start := 0xFFD4000, stop := 0xFFD5FFF, kind := .unmapped },
    { start := 0xFFD6000, stop := 0xFFD6FFF, kind := .diskBuffer },
    { start := 0xFFD7000, stop := 0xFFF7FFF, kind := .unmapped },
    { start := 0xFFF8000, stop := 0xFFFBFFF, kind := .privRam },
    { start := 0xFFFC000, stop := 0xFFFFFFF, kind := .unmapped } ]

/-- The default `REGION_TABLE` (R65). -/
def regionTable : List Region := regionTableLow ++ regionTableHigh

/-- The shadow base of a zone of a two-zone group: the second (odd) zone's is the first's plus 0x1000 (R165). -/
def shadowAt (first : LinAddr) (zone : Zone) : BankEntry :=
  .shadowRom (if zone.getLsbD 0 then first + 0x1000#28 else first)

/-- The default `BANK_TABLE` (R165), by zone group, first match wins. Zones below 8 have no policy and are RAM (R160). -/
def bankTable (code : BitVec 3) (v : BitVec 4) (zone : Zone) : BankEntry :=
  match zone.toNat with
  | 8 | 9 => if v.getLsbD 0 then shadowAt 0x0038000#28 zone else .ram
  | 10 | 11 =>
    if v.getLsbD 1 then shadowAt 0x003A000#28 zone
    else if code = 3#3 ∨ code = 7#3 then shadowAt 0x002A000#28 zone
    else .ram
  | 12 => if v.getLsbD 2 then .shadowRom 0x002C000#28 else .ram
  | 13 =>
    if code = 5#3 ∨ code = 6#3 ∨ code = 7#3 then .legacyIo
    else if code = 1#3 ∨ code = 2#3 ∨ code = 3#3 then .shadowRom 0x002D000#28
    else .ram
  | 14 | 15 =>
    if v.getLsbD 3 then shadowAt 0x003E000#28 zone
    else if code = 2#3 ∨ code = 3#3 ∨ code = 6#3 ∨ code = 7#3 then shadowAt 0x002E000#28 zone
    else .ram
  | _ => .ram

/-- An offset field as R192 assembles it: `(hi[3:0] << 16) | (lo << 8)`, 20 bits, the low 8 bits zero. -/
def remapOffset (hi lo : Byte) : BitVec 20 := (hi.extractLsb' 0 4 ++ lo) ++ 0#8

/-- The block mask as R192 assembles it: `(z[7:4] << 4) | x[7:4]`. -/
def remapMask (x z : Byte) : Byte := z.extractLsb' 4 4 ++ x.extractLsb' 4 4

/-- The default `MAP_DECODE` (R192). -/
def mapDecode (a x y z : Byte) (old : MapConfig) : MapConfig :=
  { offLow := remapOffset x a
    offHigh := remapOffset z y
    mask := remapMask x z
    mbLow := if x = 0x0F#8 then a else old.mbLow
    mbHigh := if z = 0x0F#8 then y else old.mbHigh }

/-- The other instance of `MAP_DECODE` the spec records (U3): a call that selects a megabyte leaves the offset and the mask
of that half as they were. No operation uses it unless a statement instantiates the parameter with it. -/
def mapDecodeMegabyteOnly (a x y z : Byte) (old : MapConfig) : MapConfig :=
  { offLow := if x = 0x0F#8 then old.offLow else remapOffset x a
    offHigh := if z = 0x0F#8 then old.offHigh else remapOffset z y
    mask := (if z = 0x0F#8 then old.mask.extractLsb' 4 4 else z.extractLsb' 4 4) ++
      (if x = 0x0F#8 then old.mask.extractLsb' 0 4 else x.extractLsb' 4 4)
    mbLow := if x = 0x0F#8 then a else old.mbLow
    mbHigh := if z = 0x0F#8 then y else old.mbHigh }

/-- The default instance of all three parameters: the machine of `exec` and `step`. -/
def params : Params := { regionTable := regionTable, bankTable := bankTable, mapDecode := mapDecode }

/-- Both offsets are multiples of 256 (R28, R193). -/
def offsetsAligned (m : MapConfig) : Prop :=
  m.offLow.extractLsb' 0 8 = 0#8 ∧ m.offHigh.extractLsb' 0 8 = 0#8

/-- The invariants of `BANK_TABLE` (R164(b) to (e); (a) holds by its type). -/
def bankTableOk (t : BitVec 3 → BitVec 4 → Zone → BankEntry) : Prop :=
  (∀ c v z, t c v z = .legacyIo → z = 13#4) ∧
  (∀ c v z b, t c v z = .shadowRom b → b.toNat % 0x1000 = 0) ∧
  (∃ c, ∀ z : Zone, 8 ≤ z.toNat → t c 0#4 z = .ram) ∧
  (∃ c b, t c 0#4 10#4 = .shadowRom b)

/-- The invariant of `MAP_DECODE` (R191(b); (a) and (c) hold by its type), asked where the old offsets are aligned: an instance
that keeps an old offset (U3) gives an aligned result because the old one is (R193). DESIGN CHOICE, log entry 7: R191(b) has no
condition, and the default instance meets it without one. -/
def mapDecodeOk (d : Byte → Byte → Byte → Byte → MapConfig → MapConfig) : Prop :=
  ∀ a x y z old, offsetsAligned old → offsetsAligned (d a x y z old)

/-- A legal instance of the parameters (R9): the invariants of R63, R64, R164 and R191 hold. -/
def paramsOk (P : Params) : Prop :=
  selfCheck P.regionTable = true ∧ bankTableOk P.bankTable ∧ mapDecodeOk P.mapDecode

end Sys2Proof.Machine
end

