-- ==== Sys2Proof/Machine/State.lean ====
section
/-! DEFINITION. The state of the block as plain data (`10_state.md`), the state after reset, and the two closed types of
reasons a step could stop for. -/

namespace Sys2Proof.Machine

/-- A reader and writer pair (R131): the closed enumeration of eight handlers. -/
inductive Handler where
  | ram
  | romRw
  | romRo
  | priv
  | ioLin
  | ioLegacy
  | zp
  | unmapped
deriving DecidableEq, Repr

/-- The value of a resolved slot (R32): the linear address of the page's first byte, the handler, the region kind the page
resolved into, and the privilege mark. -/
structure Resolved where
  base : LinAddr
  handler : Handler
  kind : RegionKind
  privDep : Bool
deriving DecidableEq, Repr

/-- A slot (R32, R210): `none` is `Unresolved`. -/
abbrev Slot := Option Resolved

/-- The names of the five special slots (R31). -/
inductive SpecialSlot where
  | list
  | src
  | tgt
  | dbg
  | flat
deriving DecidableEq, Repr

/-- The five special slots (R31). -/
structure SpecialSlots where
  list : Slot
  src : Slot
  tgt : Slot
  dbg : Slot
  flat : Slot
deriving DecidableEq, Repr

/-- `unmapped_mode` (R34). -/
inductive UnmappedMode where
  | ask
  | silent
deriving DecidableEq, Repr

/-- `run` (R35). -/
inductive Run where
  | running
  | halted (reason : HaltReason) (addr : WideAddr) (pc : CpuPc)
deriving DecidableEq, Repr

/-- What is presented to the block from outside (R106): a request word, or the `reset` input. -/
inductive Input where
  | request (w : Request)
  | reset
deriving DecidableEq, Repr

/-- No fault: each of the three errors of R280 is a next state of the block (halted, or completed with the dummy result),
so no step of the model stops with a fault and this type has no constructor (log entry 23). Safe. -/
inductive Fault where
deriving DecidableEq, Repr

/-- Why a step could be refused. -/
inductive Refusal where
  /-- Raised by no arm of `exec`: every operation of the opcode table has its meaning. The name an arm without a meaning
  would answer with. Safe: a refusal proves nothing. -/
  | notModelled (mnemonic : String)
deriving DecidableEq, Repr

/-- The state of the block (R20 to R39) and, below it, what stands at and has crossed its boundary (the model's own
fields, log entries 1, 3, 4 and 12). -/
structure State where
  /-- `port_ddr` (R23) -/
  portDdr : Byte
  /-- `port_data` (R23) -/
  portData : Byte
  /-- `romvis` (R24) -/
  romvis : BitVec 4
  /-- `priv` (R25): true is privileged -/
  priv : Bool
  /-- `io_layout` (R26) -/
  ioLayout : Layout
  /-- `rom_wp` (R27): true is protected -/
  romWp : Bool
  /-- `map` (R28) -/
  map : MapConfig
  /-- `irq_inhibit` (R29), an output -/
  irqInhibit : Bool
  /-- `pslot[0..255]` (R30), by page number; a page that is not listed is `Unresolved` -/
  pslots : List (Nat × Resolved)
  /-- `sslot[...]` (R31) -/
  sslots : SpecialSlots
  /-- `mem` (R33), by linear address; an address that is not listed has not been written since power-on -/
  mem : List Host.Cell
  /-- `unmapped_mode` (R34) -/
  unmappedMode : UnmappedMode
  /-- `run` (R35) -/
  run : Run
  /-- MODEL: the inputs presented to the block and not yet taken, in order (R80, R106) -/
  inbox : List Input
  /-- MODEL: the dispatcher's next answers, in order; when none is left an answer is a free value (R76) -/
  ioAnswers : List Byte
  /-- MODEL: the prompt's next answers, in order; when none is left an answer is a free value (R286) -/
  choices : List Choice
  /-- MODEL: the response word of the last operation, none when it gave none (R104, R289) -/
  rsp : Option Response
  /-- MODEL: everything that has crossed the boundary, oldest first (R86) -/
  events : List Event
deriving DecidableEq, Repr

/-- The canonical form of the backing store: addresses strictly rising. An address that is not listed has no byte in the
list (its content is the free value `Config.memInit`), so no entry can equal what an unlisted address holds. -/
def Memory.wf (m : List Host.Cell) : Bool := assocRising m

/-- All five special slots `Unresolved`. -/
def SpecialSlots.unresolved : SpecialSlots := { list := none, src := none, tgt := none, dbg := none, flat := none }

/-- The machine right after power-on and reset (R39, R310). -/
def State.reset : State :=
  { portDdr := 0x00#8
    portData := 0x00#8
    romvis := 0#4
    priv := false
    ioLayout := 0#2
    romWp := false
    map := { mbLow := 0x00#8, offLow := 0#20, mbHigh := 0x00#8, offHigh := 0#20, mask := 0x00#8 }
    irqInhibit := false
    pslots := []
    sslots := SpecialSlots.unresolved
    mem := []
    unmappedMode := .ask
    run := if selfCheck params.regionTable then .running else .halted .config 0#32 0#16
    inbox := []
    ioAnswers := []
    choices := []
    rsp := none
    events := [] }

end Sys2Proof.Machine
end

