-- ==== Sys2Proof/Machine/Operands.lean ====
section
/-! DEFINITION. The derived quantities of addresses (R13, `00_scope.md`), the assembly of linear addresses (R197, R217,
R225, R133), and the tests on operands. The operand fields of a request word are cut out in Decode.lean. -/

namespace Sys2Proof.Machine

/-- `page(a) = a[15:8]` (R13). -/
def cpuPage (a : CpuAddr) : PageNo := a.extractLsb' 8 8

/-- `off(a) = a[7:0]` (R13). -/
def cpuOffset (a : CpuAddr) : Byte := a.extractLsb' 0 8

/-- The zone of a page, `p[7:4]` (R13). -/
def pageZone (p : PageNo) : Zone := p.extractLsb' 4 4

/-- The block of a page, `p[7:5]` (R13). -/
def pageBlock (p : PageNo) : Block := p.extractLsb' 5 3

/-- `p << 8`: the CPU address of a page's first byte. -/
def pageAddr (p : PageNo) : CpuAddr := p ++ 0#8

/-- `p << 8` as a linear address: where the identity policy puts a page (R217, D24). -/
def pageIdentity (p : PageNo) : LinAddr := (pageAddr p).setWidth 28

/-- `p[3:0] << 8`: where a page lies in its zone (R217). -/
def pageInZone (p : PageNo) : LinAddr := (p.extractLsb' 0 4 ++ 0#8 : BitVec 12).setWidth 28

/-- The page belongs to a zone the bank policy speaks of: zones 8 to 15 (R160). -/
def pageBanked (p : PageNo) : Bool := decide (8 ≤ (pageZone p).toNat)

/-- The page lies at or above `$8000`: pages 0x80 to 0xFF (R195). -/
def pageHigh (p : PageNo) : Bool := decide (0x80 ≤ p.toNat)

/-- The presented address lies in the 28-bit linear space (R226, R282). -/
def inLinearSpace (a : WideAddr) : Bool := decide (a.toNat < 2 ^ 28)

/-- `a32 & 0xFFFFF00` (R226) of an address in the linear space: bits 27 to 8, the tag of the special slots (R225). -/
def linearPage (a : WideAddr) : LinAddr := a.extractLsb' 8 20 ++ 0#8

/-- `a32[7:0]` (R226). -/
def linearOffset (a : WideAddr) : Byte := a.extractLsb' 0 8

/-- `L = base + o` (R133). No wrap can occur for a page's base. -/
def atOffset (base : LinAddr) (o : Byte) : LinAddr := base + o.setWidth 28

/-- `MapTranslate` (R197): the megabyte above the 20-bit sum of offset and address, its carry discarded. -/
def mapTranslate (mb : Byte) (off : BitVec 20) (a : CpuAddr) : LinAddr := mb ++ (off + a.setWidth 20)

/-- The 12-bit local address in a chip-register window, `L[11:0]` (R139, R140). -/
def ioLocal (l : LinAddr) : IoLocal := l.extractLsb' 0 12

/-- The layout a linear I/O address selects, `(L - IO_BASE)[13:12]` (R139). -/
def ioWindow (ioBase l : LinAddr) : Layout := (l - ioBase).extractLsb' 12 2

end Sys2Proof.Machine
end

