-- ==== Sys2Proof/Machine/Flags.lean ====
section
/-! DEFINITION. The block has no condition codes or status flags (R22); what it reports are the status codes of the
response word (R104, R105), the numeric reason of a halt (R280), and the two level outputs (R29, R35, R106). -/

namespace Sys2Proof.Machine

/-- The status of an operation that ended with a response (R105). -/
inductive Status where
  | ok
  | okDummy
  | illegalOp
deriving DecidableEq, Repr

/-- `rsp.status` (R105). -/
def statusCode : Status → BitVec 4
  | .ok => 0x0#4
  | .okDummy => 0x1#4
  | .illegalOp => 0x2#4

/-- The response word: bits 15:12 zero, status, `rdata` (R104). -/
def responseWord (st : Status) (rdata : Byte) : Response := 0#4 ++ statusCode st ++ rdata

/-- The dummy read value, all-ones (R8). -/
def dummyByte : Byte := 0xFF#8

/-- The numeric code of `run.reason` (R280). -/
def reasonCode : HaltReason → Nat
  | .config => 1
  | .impossible => 2
  | .abort => 3

/-- The output `halted`: 1 exactly when `run` is `HALTED` (R35). -/
def State.halted (s : State) : Bool :=
  match s.run with
  | .running => false
  | .halted _ _ _ => true

/-- The output `irq_inhibit` (R29, R292): while it is 1 the CPU must not begin an interrupt sequence (R200). -/
def State.irqInhibited (s : State) : Bool := s.irqInhibit

end Sys2Proof.Machine
end

