-- ==== Sys2Proof/Machine/Ops.lean ====
section
/-! DEFINITION. The named operations every meaning is built from: the store primitives (R71, R72), the slots and their
invalidation (R214), the collaborators (R76, R284), the response (R104), the halt and the reset that leaves it (R282, R284,
R289, R310), and the frame of one operation (R287). -/

namespace Sys2Proof.Machine

/-- The outcome of a step. -/
abbrev Result := Host.Outcome State Fault Refusal

/-! ### The backing store -/

/-- `mem[c]` at a canonical address (R33): the byte last written there, else the free value of power-on (R313). -/
def storedByte (mem : List Host.Cell) (c : Nat) : Byte := (assocGet c mem).getD (Config.memInit c)

/-- `MemRead(l, 1)` (R71). -/
def memRead (P : Params) (l : LinAddr) (s : State) : Byte := storedByte s.mem (canon P.regionTable l.toNat)

/-- `MemWrite(l, 1, v)` (R72). -/
def memWrite (P : Params) (l : LinAddr) (v : Byte) (s : State) : State :=
  { s with mem := assocPut (canon P.regionTable l.toNat) v s.mem }

/-! ### The slots -/

/-- `pslot[p]` (R30). -/
def pslotAt (p : PageNo) (s : State) : Slot := assocGet p.toNat s.pslots

/-- `pslot[p] <- Resolved(...)` (R216). -/
def setPslot (p : PageNo) (r : Resolved) (s : State) : State := { s with pslots := assocPut p.toNat r s.pslots }

/-- One of the five special slots (R31). -/
def specialGet (k : SpecialSlot) (t : SpecialSlots) : Slot :=
  match k with
  | .list => t.list
  | .src => t.src
  | .tgt => t.tgt
  | .dbg => t.dbg
  | .flat => t.flat

/-- Write one of the five special slots; the others are as they were (R226). -/
def specialPut (k : SpecialSlot) (v : Slot) (t : SpecialSlots) : SpecialSlots :=
  match k with
  | .list => { t with list := v }
  | .src => { t with src := v }
  | .tgt => { t with tgt := v }
  | .dbg => { t with dbg := v }
  | .flat => { t with flat := v }

/-- `sslot[k]` (R31). -/
def sslotAt (k : SpecialSlot) (s : State) : Slot := specialGet k s.sslots

/-- `sslot[k] <- Resolved(...)` (R216). -/
def setSslot (k : SpecialSlot) (r : Resolved) (s : State) : State := { s with sslots := specialPut k (some r) s.sslots }

/-- `Invalidate(S)` for the page slots (R214): the resolved page slots that `sel` selects become `Unresolved`. -/
def invalidatePages (sel : PageNo → Resolved → Bool) (s : State) : State :=
  { s with pslots := assocDrop (fun k r => sel (BitVec.ofNat 8 k) r) s.pslots }

/-- A slot after an invalidation of the resolved values that `sel` selects (R214). -/
def slotKept (sel : Resolved → Bool) (t : Slot) : Slot := t.filter fun r => !sel r

/-- `Invalidate(S)` for the special slots (R214): those whose value `sel` selects become `Unresolved`. -/
def invalidateSpecials (sel : Resolved → Bool) (s : State) : State :=
  { s with sslots :=
      { list := slotKept sel s.sslots.list
        src := slotKept sel s.sslots.src
        tgt := slotKept sel s.sslots.tgt
        dbg := slotKept sel s.sslots.dbg
        flat := slotKept sel s.sslots.flat } }

/-- `Invalidate` of every slot, page and special alike, whose value `sel` selects (R176, R180). -/
def invalidateAll (sel : Resolved → Bool) (s : State) : State :=
  invalidateSpecials sel (invalidatePages (fun _ r => sel r) s)

/-! ### The collaborators -/

/-- Record what crosses the boundary (R86). -/
def emit (e : Event) (s : State) : State := { s with events := s.events ++ [e] }

/-- The dispatcher's answer to the next `IoRead` (R76): the next scripted one, else a free value. -/
def dispatcherAnswer (layout : Layout) (a : IoLocal) (s : State) : Byte :=
  match s.ioAnswers with
  | v :: _ => v
  | [] => Config.ioAnswer s.events layout a

/-- The state after an `IoRead` (R76): the answer is used up and the call recorded; nothing of the block changes. -/
def afterIoRead (layout : Layout) (a : IoLocal) (s : State) : State :=
  emit (.ioRead layout a (dispatcherAnswer layout a s)) { s with ioAnswers := s.ioAnswers.tail }

/-- `IoWrite(layout, local, v)` (R76). -/
def ioWrite (layout : Layout) (a : IoLocal) (v : Byte) (s : State) : State := emit (.ioWrite layout a v) s

/-- The prompt's choice for the next report (R286): the next scripted one, else a free value. -/
def promptAnswer (l : LinAddr) (pc : CpuPc) (isWrite : Bool) (s : State) : Choice :=
  match s.choices with
  | c :: _ => c
  | [] => Config.promptChoice s.events l pc isWrite

/-- The state after a report (R284): the choice is used up and the report recorded. -/
def afterReport (l : LinAddr) (pc : CpuPc) (isWrite : Bool) (s : State) : State :=
  emit (.unmappedReport l pc isWrite (promptAnswer l pc isWrite s)) { s with choices := s.choices.tail }

/-! ### Ending an operation: the response, the halt, the reset -/

/-- `respond(status, rdata)` (R12, R104). -/
def respond (st : Status) (rdata : Byte) (s : State) : State :=
  emit (.response (responseWord st rdata)) { s with rsp := some (responseWord st rdata) }

/-- TAKING AN ERROR (R280, R282, R284): the block halts with its record, the operation gives no response word, and nothing
else of the block changes (R288). -/
def halt (reason : HaltReason) (addr : WideAddr) (pc : CpuPc) (s : State) : State :=
  emit (.halt reason addr pc) { s with run := .halted reason addr pc, rsp := none }

/-- `run` as reset leaves it (R311): running when the region table passes its self-check, else halted with
ConfigurationError (R281). -/
def runAfterReset (P : Params) : Run :=
  if selfCheck P.regionTable then .running else .halted .config 0#32 0#16

/-- LEAVING AN ERROR: the `reset` input (R310), the only way out of a halt (R289). `mem` is not touched (R313); reset gives
no response word and emits no event. -/
def applyReset (P : Params) (s : State) : State :=
  { s with
    portDdr := 0x00#8
    portData := 0x00#8
    romvis := 0#4
    priv := false
    ioLayout := 0#2
    romWp := false
    map := { mbLow := 0x00#8, offLow := 0#20, mbHigh := 0x00#8, offHigh := 0#20, mask := 0x00#8 }
    irqInhibit := false
    pslots := []
    sslots := SpecialSlots.unresolved
    unmappedMode := .ask
    run := runAfterReset P
    rsp := none }

/-- What a handler ends with: a reply, or a halted block that gives none (R142, R284). -/
inductive Handled where
  | reply (st : Status) (rdata : Byte) (s : State)
  | ended (s : State)
deriving DecidableEq, Repr

/-- The end of an access operation: respond, unless the block halted on the way (R104, R289). -/
def finish : Handled → State
  | .reply st rdata s => respond st rdata s
  | .ended s => s

/-- `UnmappedAccess(L, pc, is_write)` and the dummy result after it (R142, R284). `rdata` is what the response carries when
the operation goes on: the dummy byte for a read, 0x00 for a write. -/
def unmappedAccess (l : LinAddr) (pc : CpuPc) (isWrite : Bool) (rdata : Byte) (s : State) : Handled :=
  match s.unmappedMode with
  | .silent => .reply .okDummy rdata s
  | .ask =>
    if promptAnswer l pc isWrite s = 0#2 ∨ promptAnswer l pc isWrite s = 3#2 then
      .ended (halt .abort (l.setWidth 32) pc (afterReport l pc isWrite s))
    else if promptAnswer l pc isWrite s = 2#2 then
      .reply .okDummy rdata { afterReport l pc isWrite s with unmappedMode := .silent }
    else
      .reply .okDummy rdata (afterReport l pc isWrite s)

/-- The frame of one operation (R287 check 1, R289): a halted block ignores the request, gives no response and changes
nothing; a running one carries it out. -/
def operate (f : State → State) (s : State) : Result :=
  match s.run with
  | .running => .next (f s)
  | .halted _ _ _ => .next { s with rsp := none }

/-- An illegal operation (R115): status `ILLEGAL_OP`, nothing else. -/
def illegalOperation (s : State) : Result := operate (fun s => respond .illegalOp 0x00#8 s) s

end Sys2Proof.Machine
end

