-- ==== Sys2Proof/Machine/BankPolicy.lean ====
section
/-! DEFINITION. The bank-policy engine and the five configuration operations that do not belong to the remap
(`41_bank_policy.md`): `PORT_WRITE`, `ROMSEL_WRITE`, `PRIV_SET`, `LAYOUT_SET`, `ROMWP_SET`. -/

namespace Sys2Proof.Machine

/-- The port code (R161): an input line reads as 1, an output line as its data bit. -/
def portCode (ddr data : Byte) : BitVec 3 := data.extractLsb' 0 3 ||| ~~~(ddr.extractLsb' 0 3)

/-- `romvis_eff` (R24, R167): forced inactive while privileged. -/
def romvisEff (romvis : BitVec 4) (priv : Bool) : BitVec 4 := if priv then 0#4 else romvis

/-- `BankView(ddr, data, rv, p)` (R166), indexed by zone. -/
def bankView (P : Params) (ddr data : Byte) (romvis : BitVec 4) (priv : Bool) : Zone → BankEntry :=
  P.bankTable (portCode ddr data) (romvisEff romvis priv)

/-- `BankView()` of the current registers (R166). -/
def currentBank (P : Params) (s : State) : Zone → BankEntry := bankView P s.portDdr s.portData s.romvis s.priv

/-- `BankUpdate(old)` (R168): the page slots of every zone 8 to 15 whose entry changed are invalidated. -/
def bankUpdate (P : Params) (old : Zone → BankEntry) (s : State) : State :=
  invalidatePages (fun p _ => pageBanked p && decide (old (pageZone p) ≠ currentBank P s (pageZone p))) s

/-- One of the two port registers written (R170). -/
def putPort (sel : PortReg) (v : Byte) (s : State) : State :=
  match sel with
  | .ddr => { s with portDdr := v }
  | .data => { s with portData := v }

/-- `PortStore(sel, v)` (R246), shared by `PORT_WRITE` and the zero-page writer. -/
def portStore (P : Params) (sel : PortReg) (v : Byte) (s : State) : State :=
  bankUpdate P (currentBank P s) (putPort sel v s)

/-- `PORT_WRITE` (R170) on an instance of the parameters. -/
def opPortWrite (P : Params) (sel : PortReg) (data : Byte) (s : State) : Result :=
  operate (fun s => respond .ok 0x00#8 (portStore P sel data s)) s

/-- `ROMSEL_WRITE` (R172) on an instance of the parameters. -/
def opRomselWrite (P : Params) (romvis : BitVec 4) (s : State) : Result :=
  operate (fun s => respond .ok 0x00#8 (bankUpdate P (currentBank P s) { s with romvis := romvis })) s

/-- The invalidation of a `PRIV_SET` (R175, R176): when the mode changes, every slot marked privilege-dependent. -/
def privInvalidate (p : Bool) (s : State) : State :=
  if p = s.priv then s else invalidateAll (fun r => r.privDep) s

/-- `PRIV_SET` (R175) on an instance of the parameters. -/
def opPrivSet (P : Params) (p : Bool) (s : State) : Result :=
  operate (fun s => respond .ok 0x00#8 (bankUpdate P (currentBank P s) { privInvalidate p s with priv := p })) s

/-- `LAYOUT_SET` (R178): nothing is invalidated. -/
def opLayoutSet (layout : Layout) (s : State) : Result :=
  operate (fun s => respond .ok 0x00#8 { s with ioLayout := layout }) s

/-- The invalidation of a `ROMWP_SET` (R180): when the protection changes, every slot of kind `SHADOW_ROM`. -/
def romwpInvalidate (wp : Bool) (s : State) : State :=
  if wp = s.romWp then s else invalidateAll (fun r => decide (r.kind = .shadowRom)) s

/-- `ROMWP_SET` (R180). -/
def opRomwpSet (wp : Bool) (s : State) : Result :=
  operate (fun s => respond .ok 0x00#8 { romwpInvalidate wp s with romWp := wp }) s

/-- `PORT_WRITE sel, data` (R170). -/
def execPortWrite (sel : PortReg) (data : Byte) (s : State) : Result := opPortWrite params sel data s

/-- `ROMSEL_WRITE data` (R172). -/
def execRomselWrite (romvis : BitVec 4) (s : State) : Result := opRomselWrite params romvis s

/-- `PRIV_SET p` (R175). -/
def execPrivSet (p : Bool) (s : State) : Result := opPrivSet params p s

/-- `LAYOUT_SET l` (R178). -/
def execLayoutSet (layout : Layout) (s : State) : Result := opLayoutSet layout s

/-- `ROMWP_SET w` (R180). -/
def execRomwpSet (wp : Bool) (s : State) : Result := opRomwpSet wp s

end Sys2Proof.Machine
end

