-- ==== Sys2Proof/Machine/ExtendedMap.lean ====
section
/-! DEFINITION. The extended-map engine and its two operations (`42_extended_map.md`): `MAP_APPLY` and `MAP_COMMIT`. -/

namespace Sys2Proof.Machine

/-- `MapEntry(b)` (R196): the megabyte and offset of a map-active block, none for any other. -/
def mapEntry (m : MapConfig) (b : Block) : Option (Byte × BitVec 20) :=
  if m.mask.getLsbD b.toNat = false then none
  else if b.toNat < 4 then some (m.mbLow, m.offLow)
  else some (m.mbHigh, m.offHigh)

/-- The page slots a `MAP_APPLY` from `old` to `new` invalidates (R195, C2): pages 0x80 to 0xFF always, and the pages of
every block 0 to 3 whose entry changed. -/
def remapInvalidates (old new : MapConfig) (p : PageNo) : Bool :=
  pageHigh p ||
    (decide ((pageBlock p).toNat < 4) && decide (mapEntry old (pageBlock p) ≠ mapEntry new (pageBlock p)))

/-- `MAP_APPLY` (R195) on an instance of the parameters. -/
def opMapApply (P : Params) (a x y z : Byte) (s : State) : Result :=
  operate (fun s =>
    respond .ok 0x00#8
      (invalidatePages (fun p _ => remapInvalidates s.map (P.mapDecode a x y z s.map) p)
        { s with map := P.mapDecode a x y z s.map, irqInhibit := true })) s

/-- `MAP_COMMIT` (R199). -/
def opMapCommit (s : State) : Result :=
  operate (fun s =>
    respond .ok 0x00#8 (invalidatePages (fun p _ => pageHigh p) { s with irqInhibit := false })) s

/-- `MAP_APPLY a, x, y, z` (R195). -/
def execMapApply (a x y z : Byte) (s : State) : Result := opMapApply params a x y z s

/-- `MAP_COMMIT` (R199). -/
def execMapCommit (s : State) : Result := opMapCommit s

end Sys2Proof.Machine
end

