-- ==== Sys2Proof/Machine/Resolve.lean ====
section
/-! DEFINITION. Resolution (`43_slot_cache.md`, `40_region_handlers.md` rule R132): how a linear page and a CPU page get
their base and handler, and how the page slots and the special slots cache them. -/

namespace Sys2Proof.Machine

/-- The handler of a region kind (R62, R132); shadow ROM is the one kind that looks at `rom_wp`. -/
def handlerOf (k : RegionKind) (romWp : Bool) : Handler :=
  match k with
  | .mainRam => .ram
  | .sharedRam => .ram
  | .colourRam => .ram
  | .auxRam => .ram
  | .shadowRom => if romWp then .romRo else .romRw
  | .privRam => .priv
  | .diskBuffer => .priv
  | .io => .ioLin
  | .cartridge => .unmapped
  | .unmapped => .unmapped

/-- `ResolveLinearPage(B)` (R132). It reads the region table and `rom_wp` and nothing else. -/
def resolveLinearPage (P : Params) (romWp : Bool) (b : LinAddr) : Resolved :=
  { base := b
    handler := handlerOf (kindAt P.regionTable b.toNat) romWp
    kind := kindAt P.regionTable b.toNat
    privDep := decide (handlerOf (kindAt P.regionTable b.toNat) romWp = .priv) }

/-- `IO_BASE` (R64) as a linear address. -/
def ioBase (P : Params) : LinAddr := BitVec.ofNat 28 (baseOfKind P.regionTable .io)

/-- What page 0 resolves to when block 0 is not map-active: the zero-page handler (R217, R245). -/
def zeroPage : Resolved := { base := 0x0000000#28, handler := .zp, kind := .mainRam, privDep := false }

/-- What a page of a zone under the LegacyIO policy resolves to (R217, R140). -/
def legacyIoPage (P : Params) (p : PageNo) : Resolved :=
  { base := ioBase P + pageInZone p, handler := .ioLegacy, kind := .io, privDep := false }

/-- What a page resolves to by the bank policy of its zone (R217). -/
def resolveBanked (P : Params) (s : State) (p : PageNo) : Resolved :=
  match currentBank P s (pageZone p) with
  | .ram => resolveLinearPage P s.romWp (pageIdentity p)
  | .shadowRom base => resolveLinearPage P s.romWp (base + pageInZone p)
  | .legacyIo => legacyIoPage P p

/-- `ResolveCpuPage(p)` (R217): the remap beats everything, the zero-page exception beats plain RAM, the bank policy applies
at and above `$8000` only. -/
def resolveCpuPage (P : Params) (s : State) (p : PageNo) : Resolved :=
  match mapEntry s.map (pageBlock p) with
  | some e => resolveLinearPage P s.romWp (mapTranslate e.1 e.2 (pageAddr p))
  | none =>
    if p = 0#8 then zeroPage
    else if pageBanked p then resolveBanked P s p
    else resolveLinearPage P s.romWp (pageIdentity p)

/-- The value `PageSlot(a16)` uses (R218): the cached one, else a fresh resolution. -/
def pageSlotValue (P : Params) (p : PageNo) (s : State) : Resolved := (pslotAt p s).getD (resolveCpuPage P s p)

/-- The state after `PageSlot(a16)` (R218, R216): an `Unresolved` slot now holds its resolution. -/
def fillPageSlot (P : Params) (p : PageNo) (s : State) : State :=
  match pslotAt p s with
  | some _ => s
  | none => setPslot p (resolveCpuPage P s p) s

/-- The special slot answers for a page with the given base: the tag compare of R225. -/
def tagMatches (t : Slot) (b : LinAddr) : Option Resolved := t.filter fun r => decide (r.base = b)

/-- The value `LinSlot(k, a32)` uses for an address in the linear space (R226). -/
def linSlotValue (P : Params) (k : SpecialSlot) (b : LinAddr) (s : State) : Resolved :=
  (tagMatches (sslotAt k s) b).getD (resolveLinearPage P s.romWp b)

/-- The state after `LinSlot(k, a32)` for an address in the linear space (R226, R216): on a mismatch the slot holds the
fresh resolution. -/
def fillLinSlot (P : Params) (k : SpecialSlot) (b : LinAddr) (s : State) : State :=
  match tagMatches (sslotAt k s) b with
  | some _ => s
  | none => setSslot k (resolveLinearPage P s.romWp b) s

end Sys2Proof.Machine
end

