-- ==== Sys2Proof/Machine/Handlers.lean ====
section
/-! DEFINITION. The region handlers (`40_region_handlers.md` rules R133 to R142, `44_cpu_access.md` rule R245): `ExecRead`
and `ExecWrite` by handler, and the four ways an access reaches them: through a page slot (R218), through a special slot
(R226), and the debug path's fresh resolution (R273, R274). -/

namespace Sys2Proof.Machine

/-- `H_ZP` reader (R245). -/
def zeroPageRead (P : Params) (o : Byte) (s : State) : Handled :=
  if o = 0#8 then .reply .ok s.portDdr s
  else if o = 1#8 then .reply .ok s.portData s
  else .reply .ok (memRead P (o.setWidth 28) s) s

/-- `H_ZP` writer (R245, R246). -/
def zeroPageWrite (P : Params) (o v : Byte) (s : State) : Handled :=
  if o = 0#8 then .reply .ok 0x00#8 (portStore P .ddr v s)
  else if o = 1#8 then .reply .ok 0x00#8 (portStore P .data v s)
  else .reply .ok 0x00#8 (memWrite P (o.setWidth 28) v s)

/-- A read of the dispatcher (R139, R140). -/
def deviceRead (layout : Layout) (l : LinAddr) (s : State) : Handled :=
  .reply .ok (dispatcherAnswer layout (ioLocal l) s) (afterIoRead layout (ioLocal l) s)

/-- A write to the dispatcher (R139, R140). -/
def deviceWrite (layout : Layout) (l : LinAddr) (v : Byte) (s : State) : Handled :=
  .reply .ok 0x00#8 (ioWrite layout (ioLocal l) v s)

/-- `ExecRead(s, o, dbg)` (R133): the handler of the slot runs on the linear address `base + o`. -/
def execRead (P : Params) (r : Resolved) (o : Byte) (dbg : Bool) (pc : CpuPc) (s : State) : Handled :=
  match r.handler with
  | .ram => .reply .ok (memRead P (atOffset r.base o) s) s
  | .romRw => .reply .ok (memRead P (atOffset r.base o) s) s
  | .romRo => .reply .ok (memRead P (atOffset r.base o) s) s
  | .priv =>
    if s.priv || dbg then .reply .ok (memRead P (atOffset r.base o) s) s
    else .reply .ok dummyByte s
  | .ioLin => deviceRead (ioWindow (ioBase P) (atOffset r.base o)) (atOffset r.base o) s
  | .ioLegacy => deviceRead s.ioLayout (atOffset r.base o) s
  | .zp => zeroPageRead P o s
  | .unmapped => unmappedAccess (atOffset r.base o) pc false dummyByte s

/-- `ExecWrite(s, o, v, dbg)` (R133). -/
def execWrite (P : Params) (r : Resolved) (o v : Byte) (dbg : Bool) (pc : CpuPc) (s : State) : Handled :=
  match r.handler with
  | .ram => .reply .ok 0x00#8 (memWrite P (atOffset r.base o) v s)
  | .romRw => .reply .ok 0x00#8 (memWrite P (atOffset r.base o) v s)
  | .romRo => .reply .ok 0x00#8 s
  | .priv =>
    if s.priv || dbg then .reply .ok 0x00#8 (memWrite P (atOffset r.base o) v s)
    else .reply .ok 0x00#8 s
  | .ioLin => deviceWrite (ioWindow (ioBase P) (atOffset r.base o)) (atOffset r.base o) v s
  | .ioLegacy => deviceWrite s.ioLayout (atOffset r.base o) v s
  | .zp => zeroPageWrite P o v s
  | .unmapped => unmappedAccess (atOffset r.base o) pc true 0x00#8 s

/-- `CpuSlotRead(a16)` (R218). -/
def cpuSlotRead (P : Params) (a : CpuAddr) (pc : CpuPc) (s : State) : Handled :=
  execRead P (pageSlotValue P (cpuPage a) s) (cpuOffset a) false pc (fillPageSlot P (cpuPage a) s)

/-- `CpuSlotWrite(a16, v)` (R218). -/
def cpuSlotWrite (P : Params) (a : CpuAddr) (v : Byte) (pc : CpuPc) (s : State) : Handled :=
  execWrite P (pageSlotValue P (cpuPage a) s) (cpuOffset a) v false pc (fillPageSlot P (cpuPage a) s)

/-- `LinSlotRead(k, a32, dbg)` (R226): an address outside the linear space is ImpossibleAddress (R282), before the slot is
looked at. -/
def linSlotRead (P : Params) (k : SpecialSlot) (a : WideAddr) (dbg : Bool) (pc : CpuPc) (s : State) : Handled :=
  if inLinearSpace a then
    execRead P (linSlotValue P k (linearPage a) s) (linearOffset a) dbg pc (fillLinSlot P k (linearPage a) s)
  else .ended (halt .impossible a pc s)

/-- `LinSlotWrite(k, a32, v, dbg)` (R226). -/
def linSlotWrite (P : Params) (k : SpecialSlot) (a : WideAddr) (v : Byte) (dbg : Bool) (pc : CpuPc) (s : State) : Handled :=
  if inLinearSpace a then
    execWrite P (linSlotValue P k (linearPage a) s) (linearOffset a) v dbg pc (fillLinSlot P k (linearPage a) s)
  else .ended (halt .impossible a pc s)

/-- The debug path's read of a CPU address (R273): a fresh resolution, the page slots neither read nor written. -/
def debugCpuRead (P : Params) (a : CpuAddr) (pc : CpuPc) (s : State) : Handled :=
  execRead P (resolveCpuPage P s (cpuPage a)) (cpuOffset a) true pc s

/-- The debug path's write of a CPU address (R274). -/
def debugCpuWrite (P : Params) (a : CpuAddr) (v : Byte) (pc : CpuPc) (s : State) : Handled :=
  execWrite P (resolveCpuPage P s (cpuPage a)) (cpuOffset a) v true pc s

/-- A read or write through a special slot, as one operation (R287). -/
def linReadOp (P : Params) (k : SpecialSlot) (a : WideAddr) (dbg : Bool) (pc : CpuPc) (s : State) : Result :=
  operate (fun s => finish (linSlotRead P k a dbg pc s)) s

/-- A write through a special slot, as one operation (R287). -/
def linWriteOp (P : Params) (k : SpecialSlot) (a : WideAddr) (v : Byte) (dbg : Bool) (pc : CpuPc) (s : State) : Result :=
  operate (fun s => finish (linSlotWrite P k a v dbg pc s)) s

end Sys2Proof.Machine
end

