-- ==== Sys2Proof/Machine/CpuAccess.lean ====
section
/-! DEFINITION. The CPU-path operations (`44_cpu_access.md`): `CPU_READ`, `CPU_WRITE`, `FLAT_READ`, `FLAT_WRITE`. -/

namespace Sys2Proof.Machine

/-- `CPU_READ` (R241) on an instance of the parameters. -/
def opCpuRead (P : Params) (addr : CpuAddr) (pc : CpuPc) (s : State) : Result :=
  operate (fun s => finish (cpuSlotRead P addr pc s)) s

/-- `CPU_WRITE` (R242) on an instance of the parameters. -/
def opCpuWrite (P : Params) (addr : CpuAddr) (data : Byte) (pc : CpuPc) (s : State) : Result :=
  operate (fun s => finish (cpuSlotWrite P addr data pc s)) s

/-- `FLAT_READ` (R249) on an instance of the parameters. -/
def opFlatRead (P : Params) (addr : WideAddr) (pc : CpuPc) (s : State) : Result := linReadOp P .flat addr false pc s

/-- `FLAT_WRITE` (R250) on an instance of the parameters. -/
def opFlatWrite (P : Params) (addr : WideAddr) (data : Byte) (pc : CpuPc) (s : State) : Result :=
  linWriteOp P .flat addr data false pc s

/-- `CPU_READ addr16` (R241). -/
def execCpuRead (addr : CpuAddr) (pc : CpuPc) (s : State) : Result := opCpuRead params addr pc s

/-- `CPU_WRITE addr16, data` (R242). -/
def execCpuWrite (addr : CpuAddr) (data : Byte) (pc : CpuPc) (s : State) : Result := opCpuWrite params addr data pc s

/-- `FLAT_READ addr32` (R249). -/
def execFlatRead (addr : WideAddr) (pc : CpuPc) (s : State) : Result := opFlatRead params addr pc s

/-- `FLAT_WRITE addr32, data` (R250). -/
def execFlatWrite (addr : WideAddr) (data : Byte) (pc : CpuPc) (s : State) : Result := opFlatWrite params addr data pc s

end Sys2Proof.Machine
end

