-- ==== Sys2Proof/Machine/DmaAccess.lean ====
section
/-! DEFINITION. The DMA-path operations (`45_dma_access.md`): three special slots, privilege substitution with the current
`priv` (R260). -/

namespace Sys2Proof.Machine

/-- `DMA_LIST_READ` (R261) on an instance of the parameters. -/
def opDmaListRead (P : Params) (addr : WideAddr) (pc : CpuPc) (s : State) : Result := linReadOp P .list addr false pc s

/-- `DMA_SRC_READ` (R262) on an instance of the parameters. -/
def opDmaSrcRead (P : Params) (addr : WideAddr) (pc : CpuPc) (s : State) : Result := linReadOp P .src addr false pc s

/-- `DMA_SRC_WRITE` (R263) on an instance of the parameters. -/
def opDmaSrcWrite (P : Params) (addr : WideAddr) (data : Byte) (pc : CpuPc) (s : State) : Result :=
  linWriteOp P .src addr data false pc s

/-- `DMA_TGT_READ` (R264) on an instance of the parameters. -/
def opDmaTgtRead (P : Params) (addr : WideAddr) (pc : CpuPc) (s : State) : Result := linReadOp P .tgt addr false pc s

/-- `DMA_TGT_WRITE` (R265) on an instance of the parameters. -/
def opDmaTgtWrite (P : Params) (addr : WideAddr) (data : Byte) (pc : CpuPc) (s : State) : Result :=
  linWriteOp P .tgt addr data false pc s

/-- `DMA_LIST_READ addr32` (R261). -/
def execDmaListRead (addr : WideAddr) (pc : CpuPc) (s : State) : Result := opDmaListRead params addr pc s

/-- `DMA_SRC_READ addr32` (R262). -/
def execDmaSrcRead (addr : WideAddr) (pc : CpuPc) (s : State) : Result := opDmaSrcRead params addr pc s

/-- `DMA_SRC_WRITE addr32, data` (R263). -/
def execDmaSrcWrite (addr : WideAddr) (data : Byte) (pc : CpuPc) (s : State) : Result := opDmaSrcWrite params addr data pc s

/-- `DMA_TGT_READ addr32` (R264). -/
def execDmaTgtRead (addr : WideAddr) (pc : CpuPc) (s : State) : Result := opDmaTgtRead params addr pc s

/-- `DMA_TGT_WRITE addr32, data` (R265). -/
def execDmaTgtWrite (addr : WideAddr) (data : Byte) (pc : CpuPc) (s : State) : Result := opDmaTgtWrite params addr data pc s

end Sys2Proof.Machine
end

