-- ==== Sys2Proof/Machine/DebugAccess.lean ====
section
/-! DEFINITION. The debug-path operations (`46_debug_access.md`): their counterparts with `dbg = 1`, which the
privileged-region handler alone reads (R270). -/

namespace Sys2Proof.Machine

/-- `DBG_LIN_READ` (R271) on an instance of the parameters. -/
def opDbgLinRead (P : Params) (addr : WideAddr) (pc : CpuPc) (s : State) : Result := linReadOp P .dbg addr true pc s

/-- `DBG_LIN_WRITE` (R272) on an instance of the parameters. -/
def opDbgLinWrite (P : Params) (addr : WideAddr) (data : Byte) (pc : CpuPc) (s : State) : Result :=
  linWriteOp P .dbg addr data true pc s

/-- `DBG_CPU_READ` (R273) on an instance of the parameters. -/
def opDbgCpuRead (P : Params) (addr : CpuAddr) (pc : CpuPc) (s : State) : Result :=
  operate (fun s => finish (debugCpuRead P addr pc s)) s

/-- `DBG_CPU_WRITE` (R274) on an instance of the parameters. -/
def opDbgCpuWrite (P : Params) (addr : CpuAddr) (data : Byte) (pc : CpuPc) (s : State) : Result :=
  operate (fun s => finish (debugCpuWrite P addr data pc s)) s

/-- `DBG_LIN_READ addr32` (R271). -/
def execDbgLinRead (addr : WideAddr) (pc : CpuPc) (s : State) : Result := opDbgLinRead params addr pc s

/-- `DBG_LIN_WRITE addr32, data` (R272). -/
def execDbgLinWrite (addr : WideAddr) (data : Byte) (pc : CpuPc) (s : State) : Result := opDbgLinWrite params addr data pc s

/-- `DBG_CPU_READ addr16` (R273). -/
def execDbgCpuRead (addr : CpuAddr) (pc : CpuPc) (s : State) : Result := opDbgCpuRead params addr pc s

/-- `DBG_CPU_WRITE addr16, data` (R274). -/
def execDbgCpuWrite (addr : CpuAddr) (data : Byte) (pc : CpuPc) (s : State) : Result := opDbgCpuWrite params addr data pc s

end Sys2Proof.Machine
end

