-- ==== Sys2Proof/Machine/Dispatch.lean ====
section
/-! DEFINITION. One arm per operation: each calls its own meaning. -/

namespace Sys2Proof.Machine

/-- The meaning of an operation on a state. -/
def exec (i : Instr) (s : State) : Host.Outcome State Fault Refusal :=
  match i with
  | .cpuRead addr pc => Sys2Proof.Machine.execCpuRead addr pc s
  | .cpuWrite addr data pc => Sys2Proof.Machine.execCpuWrite addr data pc s
  | .flatRead addr pc => Sys2Proof.Machine.execFlatRead addr pc s
  | .flatWrite addr data pc => Sys2Proof.Machine.execFlatWrite addr data pc s
  | .dmaListRead addr pc => Sys2Proof.Machine.execDmaListRead addr pc s
  | .dmaSrcRead addr pc => Sys2Proof.Machine.execDmaSrcRead addr pc s
  | .dmaSrcWrite addr data pc => Sys2Proof.Machine.execDmaSrcWrite addr data pc s
  | .dmaTgtRead addr pc => Sys2Proof.Machine.execDmaTgtRead addr pc s
  | .dmaTgtWrite addr data pc => Sys2Proof.Machine.execDmaTgtWrite addr data pc s
  | .dbgLinRead addr pc => Sys2Proof.Machine.execDbgLinRead addr pc s
  | .dbgLinWrite addr data pc => Sys2Proof.Machine.execDbgLinWrite addr data pc s
  | .dbgCpuRead addr pc => Sys2Proof.Machine.execDbgCpuRead addr pc s
  | .dbgCpuWrite addr data pc => Sys2Proof.Machine.execDbgCpuWrite addr data pc s
  | .portWrite sel data => Sys2Proof.Machine.execPortWrite sel data s
  | .romselWrite romvis => Sys2Proof.Machine.execRomselWrite romvis s
  | .mapApply a x y z => Sys2Proof.Machine.execMapApply a x y z s
  | .mapCommit => Sys2Proof.Machine.execMapCommit s
  | .privSet p => Sys2Proof.Machine.execPrivSet p s
  | .layoutSet layout => Sys2Proof.Machine.execLayoutSet layout s
  | .romwpSet wp => Sys2Proof.Machine.execRomwpSet wp s

end Sys2Proof.Machine
end

