-- ==== Sys2Proof/Machine/Parametric.lean ====
section
/-! DEFINITION. The same machine on every instance of the three parameters (R9): `execAt params` is `exec` and
`stepAt params` is `step` (Laws/Step.lean). A statement over `stepAt P` is the spec's "quantify over every instance". What
one input does, given the meaning of the operations, is written once here and shared with Step.lean. -/

namespace Sys2Proof.Machine

/-- The meaning of an operation on an instance of the parameters. -/
def execAt (P : Params) (i : Instr) (s : State) : Result :=
  match i with
  | .cpuRead addr pc => opCpuRead P addr pc s
  | .cpuWrite addr data pc => opCpuWrite P addr data pc s
  | .flatRead addr pc => opFlatRead P addr pc s
  | .flatWrite addr data pc => opFlatWrite P addr data pc s
  | .dmaListRead addr pc => opDmaListRead P addr pc s
  | .dmaSrcRead addr pc => opDmaSrcRead P addr pc s
  | .dmaSrcWrite addr data pc => opDmaSrcWrite P addr data pc s
  | .dmaTgtRead addr pc => opDmaTgtRead P addr pc s
  | .dmaTgtWrite addr data pc => opDmaTgtWrite P addr data pc s
  | .dbgLinRead addr pc => opDbgLinRead P addr pc s
  | .dbgLinWrite addr data pc => opDbgLinWrite P addr data pc s
  | .dbgCpuRead addr pc => opDbgCpuRead P addr pc s
  | .dbgCpuWrite addr data pc => opDbgCpuWrite P addr data pc s
  | .portWrite sel data => opPortWrite P sel data s
  | .romselWrite romvis => opRomselWrite P romvis s
  | .mapApply a x y z => opMapApply P a x y z s
  | .mapCommit => opMapCommit s
  | .privSet p => opPrivSet P p s
  | .layoutSet layout => opLayoutSet layout s
  | .romwpSet wp => opRomwpSet wp s

/-- The request is taken from the inputs and recorded: it has crossed the boundary (R86). -/
def takeRequest (w : Request) (rest : List Input) (s : State) : State :=
  { s with inbox := rest, events := s.events ++ [.request w] }

/-- Carry out one request word (R103, R287): decode it, then the operation's meaning, or the illegal operation (R115). -/
def runRequest (meaning : Instr → State → Result) (w : Request) (s : State) : Result :=
  match decode w with
  | .ok i => meaning i s
  | .error _ => illegalOperation s

/-- Take the next input (R80, R106): a request, or `reset` (R310); with none the block idles, all state held (R302). -/
def nextInput (P : Params) (meaning : Instr → State → Result) (s : State) : Result :=
  match s.inbox with
  | [] => .next s
  | .reset :: rest => .next (applyReset P { s with inbox := rest })
  | .request w :: rest => runRequest meaning w (takeRequest w rest s)

/-- One step on an instance of the parameters. -/
def stepAt (P : Params) (s : State) : Result := nextInput P (execAt P) s

end Sys2Proof.Machine
end

