-- ==== Sys2Proof/Machine/Step.lean ====
section
/-! DEFINITION. One step of the block: it takes the next input presented to it (log entry 1). -/

namespace Sys2Proof.Machine

/-- One step: the next input, with the meanings of `exec`. -/
def step (s : State) : Host.Outcome State Fault Refusal := nextInput params exec s

/-- `s` with the request word `w` presented as the next input (R100). A request is one 64-bit word; bits from `nbits` up
are zero. -/
def State.withFetchWord (s : State) (nbits w : Nat) : State :=
  { s with inbox := .request (BitVec.ofNat 64 (w % 2 ^ nbits)) :: s.inbox }

end Sys2Proof.Machine
end

