-- ==== Sys2Proof/Machine/Pseudo.lean ====
section
/-! DEFINITION. The pseudo-operations of `30_encoding.md` rule R119, each a fixed sequence of real operations, and the
textual syntax of R118 as a printer. Neither adds anything to the machine. -/

namespace Sys2Proof.Machine

/-- Carry out operations one after another (R80). -/
def execAll : List Instr → State → Result
  | [], s => .next s
  | i :: rest, s =>
    match exec i s with
    | .next t => execAll rest t
    | .fault f => .fault f
    | .refused r => .refused r

/-- `PORT_SET #$dd, #$vv` (R119): direction first, then data. -/
def portSetOps (dd vv : Byte) : List Instr := [.portWrite .ddr dd, .portWrite .data vv]

/-- `REMAP a, x, y, z` (R119). -/
def remapOps (a x y z : Byte) : List Instr := [.mapApply a x y z, .mapCommit]

/-- `rsp.rdata` (R104). -/
def rdataOf (r : Response) : Byte := r.extractLsb' 0 8

/-- `COPY_BYTE $src, $dst` (R119): what one step of the DMA controller asks for. The byte written is the one the read's
response carried; where the read halted the block there is none, and nothing more is asked for. -/
def copyByte (src dst : WideAddr) (pc : CpuPc) (s : State) : Result :=
  match exec (.dmaSrcRead src pc) s with
  | .next t =>
    match t.rsp with
    | some r => exec (.dmaTgtWrite dst (rdataOf r) pc) t
    | none => .next t
  | .fault f => .fault f
  | .refused r => .refused r

/-- The character of a hexadecimal digit, in capitals. -/
def hexDigit (n : Nat) : Char := "0123456789ABCDEF".toList.getD (n % 16) '0'

/-- `k` hexadecimal digits of `n`, most significant first. -/
def hexText : Nat → Nat → List Char
  | 0, _ => []
  | k + 1, n => hexText k (n / 16) ++ [hexDigit n]

/-- An address of format A: `$` and four digits (R118). -/
def textAddr16 (a : CpuAddr) : List Char := '$' :: hexText 4 a.toNat

/-- An address of format L: `$` and seven digits, or eight where seven do not hold it (R118). -/
def textAddr32 (a : WideAddr) : List Char := '$' :: hexText (if inLinearSpace a then 7 else 8) a.toNat

/-- A byte: `#$` and two digits (R118). -/
def textByte (b : Byte) : List Char := '#' :: '$' :: hexText 2 b.toNat

/-- The optional trailing `@$hhhh`, left out for the default 0 (R118). -/
def textPc (pc : CpuPc) : List Char := if pc = 0#16 then [] else ' ' :: '@' :: '$' :: hexText 4 pc.toNat

/-- One bit as `#0` or `#1` (R118). -/
def textBit (b : Bool) : List Char := ['#', if b then '1' else '0']

/-- A separator of operands (R118). -/
def textSep : List Char := [',', ' ']

/-- An access operation that reads: mnemonic, address, program counter. -/
def textRead (name : String) (addr : List Char) (pc : CpuPc) : List Char := name.toList ++ ' ' :: addr ++ textPc pc

/-- An access operation that writes: mnemonic, address, byte, program counter. -/
def textWrite (name : String) (addr : List Char) (v : Byte) (pc : CpuPc) : List Char :=
  name.toList ++ ' ' :: addr ++ textSep ++ textByte v ++ textPc pc

/-- The text of an operation (R118), as its characters. -/
def instrText : Instr → List Char
  | .cpuRead a pc => textRead "CPU_READ" (textAddr16 a) pc
  | .cpuWrite a v pc => textWrite "CPU_WRITE" (textAddr16 a) v pc
  | .flatRead a pc => textRead "FLAT_READ" (textAddr32 a) pc
  | .flatWrite a v pc => textWrite "FLAT_WRITE" (textAddr32 a) v pc
  | .dmaListRead a pc => textRead "DMA_LIST_READ" (textAddr32 a) pc
  | .dmaSrcRead a pc => textRead "DMA_SRC_READ" (textAddr32 a) pc
  | .dmaSrcWrite a v pc => textWrite "DMA_SRC_WRITE" (textAddr32 a) v pc
  | .dmaTgtRead a pc => textRead "DMA_TGT_READ" (textAddr32 a) pc
  | .dmaTgtWrite a v pc => textWrite "DMA_TGT_WRITE" (textAddr32 a) v pc
  | .dbgLinRead a pc => textRead "DBG_LIN_READ" (textAddr32 a) pc
  | .dbgLinWrite a v pc => textWrite "DBG_LIN_WRITE" (textAddr32 a) v pc
  | .dbgCpuRead a pc => textRead "DBG_CPU_READ" (textAddr16 a) pc
  | .dbgCpuWrite a v pc => textWrite "DBG_CPU_WRITE" (textAddr16 a) v pc
  | .portWrite sel v => "PORT_WRITE ".toList ++ textBit (sel = .data) ++ textSep ++ textByte v
  | .romselWrite rv => "ROMSEL_WRITE #$".toList ++ hexText 1 rv.toNat
  | .mapApply a x y z =>
    "MAP_APPLY a=".toList ++ textByte a ++ ", x=".toList ++ textByte x ++ ", y=".toList ++ textByte y ++ ", z=".toList ++
      textByte z
  | .mapCommit => "MAP_COMMIT".toList
  | .privSet p => "PRIV_SET ".toList ++ textBit p
  | .layoutSet l => "LAYOUT_SET #".toList ++ hexText 1 l.toNat
  | .romwpSet wp => "ROMWP_SET ".toList ++ textBit wp

end Sys2Proof.Machine
end

