-- ==== Sys2Proof/Safety.lean ====
section
/-! DEFINITION. What the claims speak in: when the slot cache is transparent (R230), when the store and the cache are in
their canonical forms (R33, R193), when two states differ in their caches only (R38), and the groups of operations that
claims name. -/

namespace Sys2Proof.Machine

/-- R230(a): every resolved page slot holds what `ResolveCpuPage` would compute from the current configuration. -/
def pagesTransparent (P : Params) (s : State) : Prop :=
  ∀ p r, pslotAt p s = some r → r = resolveCpuPage P s p

/-- R230(b): every resolved special slot holds what `ResolveLinearPage` would compute for its base. -/
def specialsTransparent (P : Params) (s : State) : Prop :=
  ∀ k r, sslotAt k s = some r → r = resolveLinearPage P s.romWp r.base

/-- R230: the slot cache is transparent. -/
def transparent (P : Params) (s : State) : Prop := pagesTransparent P s ∧ specialsTransparent P s

/-- The page slots are listed in canonical form: page numbers rise strictly and are below 256 (R30). -/
def pagesWf (s : State) : Prop := assocRising s.pslots = true ∧ ∀ e ∈ s.pslots, e.1 < 256

/-- A page's base has bits 7 to 0 zero (R32). -/
def baseAligned (b : LinAddr) : Prop := b.extractLsb' 0 8 = 0#8

/-- Every resolved special slot has a page's base (R32). -/
def specialsAligned (s : State) : Prop := ∀ k r, sslotAt k s = some r → baseAligned r.base

/-- The store is in canonical form and lists canonical storage addresses only (R33). -/
def storeWf (P : Params) (s : State) : Prop :=
  Memory.wf s.mem = true ∧ ∀ e ∈ s.mem, canonicalStorage P.regionTable e.1 = true

/-- The invariant of the block: the cache is transparent and canonical, the map's offsets are multiples of 256 (R193), the
store is canonical. -/
def blockInv (P : Params) (s : State) : Prop :=
  transparent P s ∧ pagesWf s ∧ specialsAligned s ∧ offsetsAligned s.map ∧ storeWf P s

/-- The state with every slot `Unresolved`: what is left is all a requester can tell apart (R38). -/
def dropCache (s : State) : State := { s with pslots := [], sslots := SpecialSlots.unresolved }

/-- A safe state: the block runs, and its invariant holds (R35, R289). -/
def safeState (P : Params) (s : State) : Prop := s.run = .running ∧ blockInv P s

/-- The seven configuration operations (R81). -/
def isConfiguration : Instr → Bool
  | .portWrite _ _ => true
  | .romselWrite _ => true
  | .mapApply _ _ _ _ => true
  | .mapCommit => true
  | .privSet _ => true
  | .layoutSet _ => true
  | .romwpSet _ => true
  | .cpuRead _ _ => false
  | .cpuWrite _ _ _ => false
  | .flatRead _ _ => false
  | .flatWrite _ _ _ => false
  | .dmaListRead _ _ => false
  | .dmaSrcRead _ _ => false
  | .dmaSrcWrite _ _ _ => false
  | .dmaTgtRead _ _ => false
  | .dmaTgtWrite _ _ _ => false
  | .dbgLinRead _ _ => false
  | .dbgLinWrite _ _ _ => false
  | .dbgCpuRead _ _ => false
  | .dbgCpuWrite _ _ _ => false

/-- The operations that hand a byte to be stored: the writes of the three access paths (R102). -/
def isAccessWrite : Instr → Bool
  | .cpuWrite _ _ _ => true
  | .flatWrite _ _ _ => true
  | .dmaSrcWrite _ _ _ => true
  | .dmaTgtWrite _ _ _ => true
  | .dbgLinWrite _ _ _ => true
  | .dbgCpuWrite _ _ _ => true
  | .portWrite _ _ => false
  | .romselWrite _ => false
  | .mapApply _ _ _ _ => false
  | .mapCommit => false
  | .privSet _ => false
  | .layoutSet _ => false
  | .romwpSet _ => false
  | .cpuRead _ _ => false
  | .flatRead _ _ => false
  | .dmaListRead _ _ => false
  | .dmaSrcRead _ _ => false
  | .dmaTgtRead _ _ => false
  | .dbgLinRead _ _ => false
  | .dbgCpuRead _ _ => false

/-- The operations that read a byte through an address: the reads of the three access paths (R102). -/
def isAccessRead : Instr → Bool
  | .cpuRead _ _ => true
  | .flatRead _ _ => true
  | .dmaListRead _ _ => true
  | .dmaSrcRead _ _ => true
  | .dmaTgtRead _ _ => true
  | .dbgLinRead _ _ => true
  | .dbgCpuRead _ _ => true
  | .cpuWrite _ _ _ => false
  | .flatWrite _ _ _ => false
  | .dmaSrcWrite _ _ _ => false
  | .dmaTgtWrite _ _ _ => false
  | .dbgLinWrite _ _ _ => false
  | .dbgCpuWrite _ _ _ => false
  | .portWrite _ _ => false
  | .romselWrite _ => false
  | .mapApply _ _ _ _ => false
  | .mapCommit => false
  | .privSet _ => false
  | .layoutSet _ => false
  | .romwpSet _ => false

/-- What an access operation comes down to once its address is resolved afresh: the page's resolution, the offset in the
page, the byte to write (0x00 for a read), the debug flag (R133, R270) and the program counter. -/
structure Access where
  page : Resolved
  offset : Byte
  data : Byte
  dbg : Bool
  pc : CpuPc
deriving DecidableEq, Repr

/-- The linear address an access reaches: `L = base + o` (R133). -/
def Access.target (x : Access) : LinAddr := x.page.base + x.offset.setWidth 28

/-- An access to a CPU address: the page as the CPU sees it now (R217). -/
def cpuAccess (P : Params) (a : CpuAddr) (v : Byte) (dbg : Bool) (pc : CpuPc) (s : State) : Access :=
  { page := resolveCpuPage P s (cpuPage a), offset := cpuOffset a, data := v, dbg := dbg, pc := pc }

/-- An access to a linear address: the page straight from the region map (R224); none for an address outside the linear
space (R282). -/
def linearAccess (P : Params) (a : WideAddr) (v : Byte) (dbg : Bool) (pc : CpuPc) (s : State) : Option Access :=
  if a.toNat < 2 ^ 28 then
    some
      { page := resolveLinearPage P s.romWp (linearPage a), offset := linearOffset a, data := v, dbg := dbg, pc := pc }
  else none

/-- The access each of the thirteen access operations makes; none for a configuration operation. -/
def accessOf (P : Params) (i : Instr) (s : State) : Option Access :=
  match i with
  | .cpuRead a pc => some (cpuAccess P a 0#8 false pc s)
  | .cpuWrite a v pc => some (cpuAccess P a v false pc s)
  | .flatRead a pc => linearAccess P a 0#8 false pc s
  | .flatWrite a v pc => linearAccess P a v false pc s
  | .dmaListRead a pc => linearAccess P a 0#8 false pc s
  | .dmaSrcRead a pc => linearAccess P a 0#8 false pc s
  | .dmaSrcWrite a v pc => linearAccess P a v false pc s
  | .dmaTgtRead a pc => linearAccess P a 0#8 false pc s
  | .dmaTgtWrite a v pc => linearAccess P a v false pc s
  | .dbgLinRead a pc => linearAccess P a 0#8 true pc s
  | .dbgLinWrite a v pc => linearAccess P a v true pc s
  | .dbgCpuRead a pc => some (cpuAccess P a 0#8 true pc s)
  | .dbgCpuWrite a v pc => some (cpuAccess P a v true pc s)
  | .portWrite _ _ => none
  | .romselWrite _ => none
  | .mapApply _ _ _ _ => none
  | .mapCommit => none
  | .privSet _ => none
  | .layoutSet _ => none
  | .romwpSet _ => none

/-- The address, slot and program counter of a format-L operation (R111, R31). -/
def linearOperand : Instr → Option (WideAddr × SpecialSlot × CpuPc)
  | .flatRead a pc => some (a, .flat, pc)
  | .flatWrite a _ pc => some (a, .flat, pc)
  | .dmaListRead a pc => some (a, .list, pc)
  | .dmaSrcRead a pc => some (a, .src, pc)
  | .dmaSrcWrite a _ pc => some (a, .src, pc)
  | .dmaTgtRead a pc => some (a, .tgt, pc)
  | .dmaTgtWrite a _ pc => some (a, .tgt, pc)
  | .dbgLinRead a pc => some (a, .dbg, pc)
  | .dbgLinWrite a _ pc => some (a, .dbg, pc)
  | .cpuRead _ _ => none
  | .cpuWrite _ _ _ => none
  | .dbgCpuRead _ _ => none
  | .dbgCpuWrite _ _ _ => none
  | .portWrite _ _ => none
  | .romselWrite _ => none
  | .mapApply _ _ _ _ => none
  | .mapCommit => none
  | .privSet _ => none
  | .layoutSet _ => none
  | .romwpSet _ => none

/-- The page whose page slot an operation goes through: the two CPU operations only (R30). -/
def pageOperand : Instr → Option PageNo
  | .cpuRead a _ => some (cpuPage a)
  | .cpuWrite a _ _ => some (cpuPage a)
  | .flatRead _ _ => none
  | .flatWrite _ _ _ => none
  | .dmaListRead _ _ => none
  | .dmaSrcRead _ _ => none
  | .dmaSrcWrite _ _ _ => none
  | .dmaTgtRead _ _ => none
  | .dmaTgtWrite _ _ _ => none
  | .dbgLinRead _ _ => none
  | .dbgLinWrite _ _ _ => none
  | .dbgCpuRead _ _ => none
  | .dbgCpuWrite _ _ _ => none
  | .portWrite _ _ => none
  | .romselWrite _ => none
  | .mapApply _ _ _ _ => none
  | .mapCommit => none
  | .privSet _ => none
  | .layoutSet _ => none
  | .romwpSet _ => none

/-- The state with the slot of an access operation holding its resolution (R216): the page slot of a CPU operation, the
special slot of a linear one, none for the debug path's CPU addresses (R273). -/
def slotFilled (P : Params) (i : Instr) (s : State) : State :=
  match pageOperand i with
  | some p => { s with pslots := (fillPageSlot P p s).pslots }
  | none =>
    match linearOperand i with
    | some e => { s with sslots := specialPut e.2.1 (some (resolveLinearPage P s.romWp (linearPage e.1))) s.sslots }
    | none => s

/-- The access ends in the backing store (R134 to R138, R245): a storing handler, a privileged-only page that the mode or
the debug path may see, or the zero page above the port. -/
def reachesStore (x : Access) (s : State) : Prop :=
  x.page.handler = .ram ∨ x.page.handler = .romRw ∨ x.page.handler = .romRo ∨
    (x.page.handler = .priv ∧ (s.priv = true ∨ x.dbg = true)) ∨
    (x.page.handler = .zp ∧ x.offset ≠ 0#8 ∧ x.offset ≠ 1#8)

/-- The access stores a byte: it ends in the store and not at protected ROM (R136). -/
def mayStore (x : Access) (s : State) : Prop := reachesStore x s ∧ x.page.handler ≠ .romRo

/-- The access shows the dummy view of a privileged-only region (R138). -/
def seesDummy (x : Access) (s : State) : Prop := x.page.handler = .priv ∧ s.priv = false ∧ x.dbg = false

/-- The layout and local address of an access to the dispatcher (R139, R140); none for any other access. -/
def deviceOf (P : Params) (x : Access) (s : State) : Option (Layout × IoLocal) :=
  match x.page.handler with
  | .ioLin => some ((x.target - ioBase P).extractLsb' 12 2, x.target.extractLsb' 0 12)
  | .ioLegacy => some (s.ioLayout, x.target.extractLsb' 0 12)
  | .ram => none
  | .romRw => none
  | .romRo => none
  | .priv => none
  | .zp => none
  | .unmapped => none

/-- The four operations of the debug path (R270). -/
def isDebug : Instr → Bool
  | .dbgLinRead _ _ => true
  | .dbgLinWrite _ _ _ => true
  | .dbgCpuRead _ _ => true
  | .dbgCpuWrite _ _ _ => true
  | .cpuRead _ _ => false
  | .cpuWrite _ _ _ => false
  | .flatRead _ _ => false
  | .flatWrite _ _ _ => false
  | .dmaListRead _ _ => false
  | .dmaSrcRead _ _ => false
  | .dmaSrcWrite _ _ _ => false
  | .dmaTgtRead _ _ => false
  | .dmaTgtWrite _ _ _ => false
  | .portWrite _ _ => false
  | .romselWrite _ => false
  | .mapApply _ _ _ _ => false
  | .mapCommit => false
  | .privSet _ => false
  | .layoutSet _ => false
  | .romwpSet _ => false

/-- The two operations that can write the zero-page port through an address (R23). -/
def isCpuAddressWrite : Instr → Bool
  | .cpuWrite _ _ _ => true
  | .dbgCpuWrite _ _ _ => true
  | .cpuRead _ _ => false
  | .flatRead _ _ => false
  | .flatWrite _ _ _ => false
  | .dmaListRead _ _ => false
  | .dmaSrcRead _ _ => false
  | .dmaSrcWrite _ _ _ => false
  | .dmaTgtRead _ _ => false
  | .dmaTgtWrite _ _ _ => false
  | .dbgLinRead _ _ => false
  | .dbgLinWrite _ _ _ => false
  | .dbgCpuRead _ _ => false
  | .portWrite _ _ => false
  | .romselWrite _ => false
  | .mapApply _ _ _ _ => false
  | .mapCommit => false
  | .privSet _ => false
  | .layoutSet _ => false
  | .romwpSet _ => false

/-- The bank entry of a page's zone differs between two states, and the zone is one of those the policy speaks of (R168). -/
def zoneChanged (P : Params) (s t : State) (p : PageNo) : Prop :=
  8 ≤ (pageZone p).toNat ∧ currentBank P s (pageZone p) ≠ currentBank P t (pageZone p)

/-- The non-debug counterpart of a debug operation (R276). -/
def debugCounterpart : Instr → Option Instr
  | .dbgLinRead a pc => some (.flatRead a pc)
  | .dbgLinWrite a v pc => some (.flatWrite a v pc)
  | .dbgCpuRead a pc => some (.cpuRead a pc)
  | .dbgCpuWrite a v pc => some (.cpuWrite a v pc)
  | .cpuRead _ _ => none
  | .cpuWrite _ _ _ => none
  | .flatRead _ _ => none
  | .flatWrite _ _ _ => none
  | .dmaListRead _ _ => none
  | .dmaSrcRead _ _ => none
  | .dmaSrcWrite _ _ _ => none
  | .dmaTgtRead _ _ => none
  | .dmaTgtWrite _ _ _ => none
  | .portWrite _ _ => none
  | .romselWrite _ => none
  | .mapApply _ _ _ _ => none
  | .mapCommit => none
  | .privSet _ => none
  | .layoutSet _ => none
  | .romwpSet _ => none

/-- The zones the truth table speaks of (R160). -/
def bankedZones : List Zone := [8#4, 9#4, 10#4, 11#4, 12#4, 13#4, 14#4, 15#4]

/-- The two zones of a group under RAM. -/
def ramPair : List BankEntry := [.ram, .ram]

/-- The two zones of a group under shadow ROM at `base` (R165). -/
def shadowPair (base : LinAddr) : List BankEntry := [.shadowRom base, .shadowRom (base + 0x1000#28)]

/-- The rows of the fixture of `95_test_vectors.md` V20 with ROM-select clear, for zones 8 to 15. -/
def bankRowClear (code : BitVec 3) : List BankEntry :=
  match code.toNat with
  | 1 => ramPair ++ ramPair ++ [.ram, .shadowRom 0x002D000#28] ++ ramPair
  | 2 => ramPair ++ ramPair ++ [.ram, .shadowRom 0x002D000#28] ++ shadowPair 0x002E000#28
  | 3 => ramPair ++ shadowPair 0x002A000#28 ++ [.ram, .shadowRom 0x002D000#28] ++ shadowPair 0x002E000#28
  | 5 => ramPair ++ ramPair ++ [.ram, .legacyIo] ++ ramPair
  | 6 => ramPair ++ ramPair ++ [.ram, .legacyIo] ++ shadowPair 0x002E000#28
  | 7 => ramPair ++ shadowPair 0x002A000#28 ++ [.ram, .legacyIo] ++ shadowPair 0x002E000#28
  | _ => ramPair ++ ramPair ++ ramPair ++ ramPair

/-- The rows of the fixture of `95_test_vectors.md` V20 with ROM-select set, for zones 8 to 15. -/
def bankRowSet (code : BitVec 3) : List BankEntry :=
  shadowPair 0x0038000#28 ++ shadowPair 0x003A000#28 ++ [.shadowRom 0x002C000#28] ++
    (match code.toNat with
      | 0 | 4 => [.ram]
      | 1 | 2 | 3 => [.shadowRom 0x002D000#28]
      | _ => [.legacyIo]) ++ shadowPair 0x003E000#28

/-- The region kinds of the privileged-only regions (R138). -/
def isPrivate (k : RegionKind) : Bool := decide (k = .privRam) || decide (k = .diskBuffer)

end Sys2Proof.Machine
end

