-- ==== Sys2Proof/Certificates/Slice0/Obligations.lean ====
section
/-! DEFINITION. The statements for the provers. Each docstring says which rule of the spec the statement formalises and
which operations it covers. Where a statement rests on a value the spec leaves to a parameter, it is about the spec's
default instance (log entries 5, 6, 7) unless it quantifies over `P : Params`. -/

open Sys2Proof Sys2Proof.Machine

/-! ### Encoding -/

/-- R100, R102, R110 to R114: the decoder reads back every well-formed operation, of all twenty, with every operand at
every value, from the word the encoder writes. -/
def Obligations.DecodeEncodeRoundTrip : Prop :=
  ∀ i : Instr, i.wellFormed = true ∧ decode (encode i) = .ok i

/-- R101: two requests that agree on the bits their operation's format reads decode alike; every other bit is ignored. -/
def Obligations.IgnoredBitsAreIgnored : Prop :=
  ∀ w v : Request, w &&& formatBits (reqOp w) = v &&& formatBits (reqOp w) → decode v = decode w

/-- R103: decoding is total and looks `req.op` up in the table: an opcode in the table gives that row's operation, any other
is an illegal operation. -/
def Obligations.OnlyTableOpcodesDecode : Prop :=
  ∀ w : Request,
    (legalOpcode (reqOp w) = true → ∃ i, decode w = .ok i ∧ i.opcode = reqOp w) ∧
    (legalOpcode (reqOp w) = false → decode w = .error (.illegalOp (reqOp w)))

/-- `95_test_vectors.md` V10 and R120: words written out from the encoding, one or more for each format, decode to the
operations they stand for. -/
def Obligations.SpecWordsDecode : Prop :=
  decode 0x114200000000A000#64 = .ok (.cpuWrite 0xA000#16 0x42#8 0#16) ∧
  decode 0x1333000008000010#64 = .ok (.flatWrite 0x8000010#32 0x33#8 0#16) ∧
  decode 0x2507C1230FF80010#64 = .ok (.dmaTgtWrite 0xFF80010#32 0x07#8 0xC123#16) ∧
  decode 0x300000000FFF8000#64 = .ok (.dbgLinRead 0xFFF8000#32 0#16) ∧
  decode 0x4037000000000001#64 = .ok (.portWrite .data 0x37#8) ∧
  decode 0x4200000078563412#64 = .ok (.mapApply 0x12#8 0x34#8 0x56#8 0x78#8) ∧
  decode 0x43FFFFFFFFFFFFFF#64 = .ok .mapCommit ∧
  decode 0x45FE000000000000#64 = .ok (.layoutSet 2#2)

/-! ### Steps, illegal requests, reset, the halted block -/

/-- The model's presentation of requests (log entry 1) with R103: a step whose next input is a request that decodes to a
well-formed operation is that operation's `exec`, on the state in which the request has been taken and recorded. -/
def Obligations.StepRunsDecodedOperation : Prop :=
  ∀ (s : State) (w : Request) (rest : List Input) (i : Instr),
    s.inbox = .request w :: rest → i.wellFormed = true → decode w = .ok i →
    step s = exec i { s with inbox := rest, events := s.events ++ [.request w] }

/-- R302 (the spec's inference) and log entry 1: with no input presented the block holds all its state. -/
def Obligations.IdleStepHoldsState : Prop := ∀ s : State, s.inbox = [] → step s = .next s

/-- R115: a running block answers a request whose opcode is not in the table with `ILLEGAL_OP` and 0x00, and changes no
state; what changes in the model's own fields is that the request is taken and that it and the response are recorded. -/
def Obligations.IllegalRequestOnlyAnswers : Prop :=
  ∀ (s : State) (w : Request) (rest : List Input),
    s.run = .running → s.inbox = .request w :: rest → legalOpcode (reqOp w) = false →
    step s = .next
      { s with
        inbox := rest
        rsp := some 0x0200#16
        events := s.events ++ [.request w, .response 0x0200#16] }

/-- R289: while the block is halted every request, legal or not, is ignored: no state changes (the record, held steady, and
`irq_inhibit` among it), no response, no collaborator is called; each of the twenty operations does nothing. The only exit
is the `reset` input, which runs the self-check again. That a halted block has a step at all, an identity step that takes the
waiting request, records it and clears `rsp`, is the model's choice (log entry 10): R289 leaves no step at all equally
open. -/
def Obligations.HaltedBlockIgnoresRequests : Prop :=
  ∀ (s : State) (reason : HaltReason) (addr : WideAddr) (pc : CpuPc), s.run = .halted reason addr pc →
    (∀ i, exec i s = .next { s with rsp := none }) ∧
    (∀ w rest, s.inbox = .request w :: rest →
      step s = .next { s with inbox := rest, rsp := none, events := s.events ++ [.request w] }) ∧
    (∀ t, step s = .next t → t.run ≠ s.run → ∃ rest, s.inbox = .reset :: rest) ∧
    (∀ P rest, s.inbox = .reset :: rest → ∃ t, stepAt P s = .next t ∧ t.run = runAfterReset P)

/-- R39: the values of the state after reset on the default table. The contents of the store are no part of it (R313). -/
def Obligations.ResetValues : Prop :=
  State.reset.portDdr = 0x00#8 ∧ State.reset.portData = 0x00#8 ∧ State.reset.romvis = 0#4 ∧ State.reset.priv = false ∧
  State.reset.ioLayout = 0#2 ∧ State.reset.romWp = false ∧
  State.reset.map.mbLow = 0x00#8 ∧ State.reset.map.mbHigh = 0x00#8 ∧
  State.reset.map.offLow = 0x00000#20 ∧ State.reset.map.offHigh = 0x00000#20 ∧ State.reset.map.mask = 0x00#8 ∧
  State.reset.irqInhibit = false ∧ (∀ p, pslotAt p State.reset = none) ∧ (∀ k, sslotAt k State.reset = none) ∧
  State.reset.unmappedMode = .ask ∧ State.reset.run = .running

/-- R310, R313: the `reset` input, in any state, the halted ones included, puts every field at its value of R39 and leaves
the store as it is; it gives no response and records no event. That the input takes its own entry of `inbox` and leaves the
entries after it, `ioAnswers` and `choices`, which are the model's own fields, is the model's choice (log entry 25). -/
def Obligations.ResetInputRestoresResetState : Prop :=
  ∀ (s : State) (rest : List Input), s.inbox = .reset :: rest →
    step s = .next
      { State.reset with
        mem := s.mem
        inbox := rest
        ioAnswers := s.ioAnswers
        choices := s.choices
        events := s.events }

/-- R310, for every instance of the parameters: `reset`, in any state, leaves every register, flag and slot at the value
the rule's procedure gives it and the store as it is; the block then runs when the region table passes its self-check, and is
halted with ConfigurationError, `HALTED(CONFIG, 0, 0)`, when it fails. That the input takes its own entry of `inbox` and
leaves the entries after it, `ioAnswers` and `choices`, which are the model's own fields, is the model's choice (log entry
25). -/
def Obligations.SelfCheckDecidesRunAtReset : Prop :=
  ∀ (P : Params) (s : State) (rest : List Input), s.inbox = .reset :: rest →
    ∃ t, stepAt P s = .next t ∧
      (selfCheck P.regionTable = true → t.run = .running) ∧
      (selfCheck P.regionTable = false → t.run = .halted .config 0#32 0#16) ∧
      t = { portDdr := 0x00#8, portData := 0x00#8, romvis := 0#4, priv := false, ioLayout := 0#2, romWp := false
            map := { mbLow := 0x00#8, offLow := 0x00000#20, mbHigh := 0x00#8, offHigh := 0x00000#20, mask := 0x00#8 }
            irqInhibit := false
            pslots := [], sslots := { list := none, src := none, tgt := none, dbg := none, flat := none }
            unmappedMode := .ask, run := t.run
            mem := s.mem, inbox := rest, ioAnswers := s.ioAnswers, choices := s.choices, rsp := none, events := s.events }

/-! ### Region map and store -/

/-- R63: in a table that passes the self-check exactly one entry claims each address of the linear space, `Region` finds it,
and none claims an address outside. -/
def Obligations.CheckedTableClaimsEachAddressOnce : Prop :=
  ∀ table : List Region, selfCheck table = true →
    (∀ l, l < 2 ^ 28 → (table.filter fun r => regionClaims r l) = [regionOf table l]) ∧
    (∀ l, 2 ^ 28 ≤ l → (table.filter fun r => regionClaims r l) = [])

/-- R64(a): in a table that passes the self-check no 256-byte page straddles two regions. -/
def Obligations.CheckedPagesLieInOneRegion : Prop :=
  ∀ table : List Region, selfCheck table = true →
    ∀ b o, b < 2 ^ 28 → b % 256 = 0 → o < 256 → regionOf table (b + o) = regionOf table b

/-- R33, R70 (consequence of R64(b), (c)): `Canon` takes every storage-backed address to a canonical storage address, is
settled after one application, and moves shared-window addresses only. -/
def Obligations.CanonLandsOnCanonicalStorage : Prop :=
  ∀ table : List Region, selfCheck table = true →
    ∀ l, l < 2 ^ 28 → storageBacked (kindAt table l) = true →
      canonicalStorage table (canon table l) = true ∧
      canon table (canon table l) = canon table l ∧
      (kindAt table l ≠ .sharedRam → canon table l = l)

/-- R71, R72 (the spec's inference from R70): the store primitives. A read of a written address gives the byte written; an
address with another canonical address reads as before; nothing but the store changes. -/
def Obligations.StorePrimitivesReadBack : Prop :=
  ∀ (P : Params) (l : LinAddr) (v : Byte) (s : State),
    memRead P l (memWrite P l v s) = v ∧
    (∀ j, canon P.regionTable j.toNat ≠ canon P.regionTable l.toNat → memRead P j (memWrite P l v s) = memRead P j s) ∧
    memWrite P l v s = { s with mem := (memWrite P l v s).mem }

/-- R70: on every table that passes the self-check, both aliases of a byte of the shared window are folded onto the colour-RAM
address, every other address of the linear space is its own, and writing through either alias makes both aliases read the
byte written. -/
def Obligations.SharedWindowAliasesColourRam : Prop :=
  ∀ P : Params, selfCheck P.regionTable = true → ∀ (i : Nat) (v : Byte) (s : State), i < 0x800 →
    ∀ w c : LinAddr, w.toNat = baseOfKind P.regionTable .sharedRam + i → c.toNat = baseOfKind P.regionTable .colourRam + i →
      canon P.regionTable w.toNat = c.toNat ∧ canon P.regionTable c.toNat = c.toNat ∧
      (∀ l, kindAt P.regionTable l ≠ .sharedRam → canon P.regionTable l = l) ∧
      memRead P w (memWrite P w v s) = v ∧ memRead P c (memWrite P w v s) = v ∧
      memRead P w (memWrite P c v s) = v ∧ memRead P c (memWrite P c v s) = v

/-- R63, R64, R164, R191: the default instances (R65, R165, R192) meet the invariants the spec puts on the parameters, and
the default `MAP_DECODE` gives offsets that are multiples of 256 from every old map, as R191(b) says without a condition. The
other instance of `MAP_DECODE` that the spec records (U3) keeps old offsets and meets R191(b) in the form of `mapDecodeOk`,
from an old map whose offsets are aligned already; that conditional form is the model's choice (log entry 7). -/
def Obligations.DefaultParametersAreLegal : Prop :=
  paramsOk params ∧ (∀ a x y z old, offsetsAligned (params.mapDecode a x y z old)) ∧
  paramsOk { params with mapDecode := mapDecodeMegabyteOnly }

/-! ### Bank policy and remap -/

/-- R161: bit by bit, a port line that is an input reads as 1 and an output as its data bit; bits 7 to 3 of the registers do
not enter the policy. -/
def Obligations.PortCodeReadsInputsAsOne : Prop :=
  (∀ (ddr data : Byte) (i : Nat), i < 3 →
    (portCode ddr data).getLsbD i = if ddr.getLsbD i = true then data.getLsbD i else true) ∧
  (∀ (P : Params) (ddr data ddr' data' : Byte) (rv : BitVec 4) (p : Bool),
    ddr.extractLsb' 0 3 = ddr'.extractLsb' 0 3 → data.extractLsb' 0 3 = data'.extractLsb' 0 3 →
    bankView P ddr data rv p = bankView P ddr' data' rv p)

/-- R182 with the fixture of `95_test_vectors.md` V20: for each of the eight codes, ROM-select set or clear, privileged or
not, the policies of zones 8 to 15 of the default table. -/
def Obligations.BankPolicyMatchesFixture : Prop :=
  ∀ ddr data : Byte,
    bankedZones.map (bankView params ddr data 0x0#4 false) = bankRowClear (portCode ddr data) ∧
    bankedZones.map (bankView params ddr data 0xF#4 false) = bankRowSet (portCode ddr data) ∧
    bankedZones.map (bankView params ddr data 0x0#4 true) = bankRowClear (portCode ddr data) ∧
    bankedZones.map (bankView params ddr data 0xF#4 true) = bankRowClear (portCode ddr data)

/-- R24, R167: while privileged the policy is that of `romvis = 0`, whatever `romvis` holds, on every instance. -/
def Obligations.PrivilegeForcesRomvisInactive : Prop :=
  ∀ (P : Params) (ddr data : Byte) (rv : BitVec 4) (z : Zone), bankView P ddr data rv true z = bankView P ddr data 0#4 false z

/-- R192: the five fields of the default `MAP_DECODE`, as numbers. -/
def Obligations.RemapBytesBecomeFields : Prop :=
  ∀ (a x y z : Byte) (old : MapConfig),
    (params.mapDecode a x y z old).offLow.toNat = (x.toNat % 16) * 2 ^ 16 + a.toNat * 2 ^ 8 ∧
    (params.mapDecode a x y z old).offHigh.toNat = (z.toNat % 16) * 2 ^ 16 + y.toNat * 2 ^ 8 ∧
    (params.mapDecode a x y z old).mask.toNat = (z.toNat / 16) * 16 + x.toNat / 16 ∧
    (params.mapDecode a x y z old).mbLow = (if x = 0x0F#8 then a else old.mbLow) ∧
    (params.mapDecode a x y z old).mbHigh = (if z = 0x0F#8 then y else old.mbHigh)

/-- R197: the translation adds in 20 bits and discards the carry, so that it stays in the chosen megabyte. -/
def Obligations.TranslationStaysInMegabyte : Prop :=
  ∀ (mb : Byte) (off : BitVec 20) (a : CpuAddr),
    (mapTranslate mb off a).toNat = mb.toNat * 2 ^ 20 + (off.toNat + a.toNat) % 2 ^ 20

/-- R198(a) (the spec's inference from R193): with an offset that is a multiple of 256 a page translates to 256 consecutive
linear bytes. -/
def Obligations.TranslationKeepsPagesWhole : Prop :=
  ∀ (mb : Byte) (off : BitVec 20) (p : PageNo) (o : Byte), off.extractLsb' 0 8 = 0#8 →
    mapTranslate mb off (p ++ o) = mapTranslate mb off (pageAddr p) + o.setWidth 28 ∧
    (mapTranslate mb off (p ++ o)).toNat = (mapTranslate mb off (pageAddr p)).toNat + o.toNat

/-! ### The configuration operations -/

/-- R170: `PORT_WRITE` on a running block writes the selected port register, invalidates exactly the page slots of the
banked zones whose entry changed, and answers `OK`; everything else is as it was. -/
def Obligations.PortWriteResult : Prop :=
  ∀ (s : State) (sel : PortReg) (v : Byte), s.run = .running → pagesWf s →
    ∃ t, exec (.portWrite sel v) s = .next t ∧
      t = { s with
            portDdr := if sel = .ddr then v else s.portDdr
            portData := if sel = .data then v else s.portData
            pslots := t.pslots
            rsp := some 0x0000#16
            events := s.events ++ [.response 0x0000#16] } ∧
      ∀ p, (zoneChanged params s t p → pslotAt p t = none) ∧ (¬ zoneChanged params s t p → pslotAt p t = pslotAt p s)

/-- R172: `ROMSEL_WRITE` on a running block writes `romvis` and invalidates exactly the page slots of the banked zones whose
entry changed (none while privileged); everything else is as it was. -/
def Obligations.RomselWriteResult : Prop :=
  ∀ (s : State) (rv : BitVec 4), s.run = .running → pagesWf s →
    ∃ t, exec (.romselWrite rv) s = .next t ∧
      t = { s with
            romvis := rv, pslots := t.pslots, rsp := some 0x0000#16, events := s.events ++ [.response 0x0000#16] } ∧
      (∀ p, (zoneChanged params s t p → pslotAt p t = none) ∧ (¬ zoneChanged params s t p → pslotAt p t = pslotAt p s)) ∧
      (s.priv = true → ∀ p, pslotAt p t = pslotAt p s)

/-- R175: `PRIV_SET` on a running block writes `priv`; when the mode changes it invalidates every slot, page or
special, marked privilege-dependent, and the page slots of the banked zones whose entry changed; everything else is as it
was. -/
def Obligations.PrivSetResult : Prop :=
  ∀ (s : State) (p : Bool), s.run = .running → pagesWf s →
    ∃ t, exec (.privSet p) s = .next t ∧
      t = { s with
            priv := p, pslots := t.pslots, sslots := t.sslots, rsp := some 0x0000#16
            events := s.events ++ [.response 0x0000#16] } ∧
      (∀ q, ((p ≠ s.priv ∧ ∃ r, pslotAt q s = some r ∧ r.privDep = true) ∨ zoneChanged params s t q →
          pslotAt q t = none) ∧
        (¬ ((p ≠ s.priv ∧ ∃ r, pslotAt q s = some r ∧ r.privDep = true) ∨ zoneChanged params s t q) →
          pslotAt q t = pslotAt q s)) ∧
      (∀ k, ((p ≠ s.priv ∧ ∃ r, sslotAt k s = some r ∧ r.privDep = true) → sslotAt k t = none) ∧
        (¬ (p ≠ s.priv ∧ ∃ r, sslotAt k s = some r ∧ r.privDep = true) → sslotAt k t = sslotAt k s))

/-- R178: `LAYOUT_SET` on a running block writes `io_layout`, invalidates nothing and answers `OK`. -/
def Obligations.LayoutSetResult : Prop :=
  ∀ (s : State) (l : Layout), s.run = .running →
    exec (.layoutSet l) s = .next
      { s with ioLayout := l, rsp := some 0x0000#16, events := s.events ++ [.response 0x0000#16] }

/-- R180: `ROMWP_SET` on a running block writes `rom_wp`; when it changes, every slot, page or special, of kind `SHADOW_ROM`
is invalidated; everything else, the ROM image among it, is as it was. -/
def Obligations.RomwpSetResult : Prop :=
  ∀ (s : State) (w : Bool), s.run = .running → pagesWf s →
    ∃ t, exec (.romwpSet w) s = .next t ∧
      t = { s with
            romWp := w, pslots := t.pslots, sslots := t.sslots, rsp := some 0x0000#16
            events := s.events ++ [.response 0x0000#16] } ∧
      (∀ q, ((w ≠ s.romWp ∧ ∃ r, pslotAt q s = some r ∧ r.kind = .shadowRom) → pslotAt q t = none) ∧
        (¬ (w ≠ s.romWp ∧ ∃ r, pslotAt q s = some r ∧ r.kind = .shadowRom) → pslotAt q t = pslotAt q s)) ∧
      (∀ k, ((w ≠ s.romWp ∧ ∃ r, sslotAt k s = some r ∧ r.kind = .shadowRom) → sslotAt k t = none) ∧
        (¬ (w ≠ s.romWp ∧ ∃ r, sslotAt k s = some r ∧ r.kind = .shadowRom) → sslotAt k t = sslotAt k s))

/-- R195: `MAP_APPLY` on a running block puts the decoded map in force at once, sets `irq_inhibit`, and invalidates pages
0x80 to 0xFF and the pages of every low block whose entry changed; special slots and everything else are as they were. -/
def Obligations.MapApplyResult : Prop :=
  ∀ (s : State) (a x y z : Byte), s.run = .running → pagesWf s →
    ∃ t, exec (.mapApply a x y z) s = .next t ∧
      t = { s with
            map := params.mapDecode a x y z s.map, irqInhibit := true, pslots := t.pslots, rsp := some 0x0000#16
            events := s.events ++ [.response 0x0000#16] } ∧
      ∀ p, ((0x80 ≤ p.toNat ∨ mapEntry s.map (pageBlock p) ≠ mapEntry t.map (pageBlock p)) → pslotAt p t = none) ∧
        (¬ (0x80 ≤ p.toNat ∨ mapEntry s.map (pageBlock p) ≠ mapEntry t.map (pageBlock p)) →
          pslotAt p t = pslotAt p s)

/-- R199: `MAP_COMMIT` on a running block clears `irq_inhibit` and invalidates pages 0x80 to 0xFF; the map and everything
else are as they were. -/
def Obligations.MapCommitResult : Prop :=
  ∀ s : State, s.run = .running → pagesWf s →
    ∃ t, exec .mapCommit s = .next t ∧
      t = { s with
            irqInhibit := false, pslots := t.pslots, rsp := some 0x0000#16
            events := s.events ++ [.response 0x0000#16] } ∧
      ∀ p, (0x80 ≤ p.toNat → pslotAt p t = none) ∧ (p.toNat < 0x80 → pslotAt p t = pslotAt p s)

/-- R200: the inhibit is one bit and not a count: after any number of `MAP_APPLY`, at least one, interrupts are held, and one
`MAP_COMMIT` releases them and keeps the map. -/
def Obligations.OneCommitReleasesAllApplies : Prop :=
  ∀ (l : List (Byte × Byte × Byte × Byte)) (s : State), l ≠ [] → s.run = .running →
    ∃ t u, execAll (l.map fun e => .mapApply e.1 e.2.1 e.2.2.1 e.2.2.2) s = .next t ∧ t.irqInhibit = true ∧
      exec .mapCommit t = .next u ∧ u.irqInhibit = false ∧ u.map = t.map

/-- The writers that R23 to R29 name: in a state with a transparent cache each configuration register is changed by no
operation but those; each port register by its `PORT_WRITE`, and by a `CPU_WRITE` or `DBG_CPU_WRITE` that reaches the
zero-page handler at its offset, 0 for `port_ddr` and 1 for `port_data`. -/
def Obligations.RegistersChangeOnlyByTheirWriters : Prop :=
  ∀ (i : Instr) (s t : State), transparent params s → exec i s = .next t →
    (t.romvis ≠ s.romvis → ∃ v, i = .romselWrite v) ∧
    (t.priv ≠ s.priv → ∃ p, i = .privSet p) ∧
    (t.ioLayout ≠ s.ioLayout → ∃ l, i = .layoutSet l) ∧
    (t.romWp ≠ s.romWp → ∃ w, i = .romwpSet w) ∧
    (t.map ≠ s.map → ∃ a x y z, i = .mapApply a x y z) ∧
    (t.irqInhibit ≠ s.irqInhibit → i = .mapCommit ∨ ∃ a x y z, i = .mapApply a x y z) ∧
    (t.portDdr ≠ s.portDdr → (∃ v, i = .portWrite .ddr v) ∨ isCpuAddressWrite i = true ∧
      ∃ x, accessOf params i s = some x ∧ x.page.handler = .zp ∧ x.offset = 0#8) ∧
    (t.portData ≠ s.portData → (∃ v, i = .portWrite .data v) ∨ isCpuAddressWrite i = true ∧
      ∃ x, accessOf params i s = some x ∧ x.page.handler = .zp ∧ x.offset = 1#8)

/-! ### The thirteen access operations, by what the address reaches -/

/-- R134 to R138, R245 with the operations' rules R241, R249, R261, R262, R264, R271, R273: on a running block with a
transparent cache, `CPU_READ`, `FLAT_READ`, `DMA_LIST_READ`, `DMA_SRC_READ`, `DMA_TGT_READ`, `DBG_LIN_READ` and
`DBG_CPU_READ` at an address that reaches the store answer `OK` and the stored byte; the operation's own slot then holds
its resolution and nothing else changes, no byte of the store among it. -/
def Obligations.ReadAnswersStoredByte : Prop :=
  ∀ (i : Instr) (s : State) (x : Access),
    isAccessRead i = true → s.run = .running → transparent params s → accessOf params i s = some x → reachesStore x s →
    exec i s = .next
      { slotFilled params i s with
        rsp := some (0x00#8 ++ memRead params x.target s)
        events := s.events ++ [.response (0x00#8 ++ memRead params x.target s)] }

/-- R245: `CPU_READ` and `DBG_CPU_READ` (the operations that reach the zero-page handler) of offset 0 and 1 answer the port
registers as last written; nothing but the operation's slot changes. -/
def Obligations.ReadOfPortAnswersRegister : Prop :=
  ∀ (i : Instr) (s : State) (x : Access) (v : Byte),
    isAccessRead i = true → s.run = .running → transparent params s → accessOf params i s = some x →
    x.page.handler = .zp → (x.offset = 0#8 ∧ v = s.portDdr ∨ x.offset = 1#8 ∧ v = s.portData) →
    exec i s = .next
      { slotFilled params i s with rsp := some (0x00#8 ++ v), events := s.events ++ [.response (0x00#8 ++ v)] }

/-- R138: a read that sees the dummy view (a privileged-only region, normal mode, not the debug path) answers `OK` and 0xFF,
with no report; nothing but the operation's slot changes. -/
def Obligations.ReadInNormalModeSeesDummy : Prop :=
  ∀ (i : Instr) (s : State) (x : Access),
    isAccessRead i = true → s.run = .running → transparent params s → accessOf params i s = some x → seesDummy x s →
    exec i s = .next
      { slotFilled params i s with rsp := some 0x00FF#16, events := s.events ++ [.response 0x00FF#16] }

/-- R139, R140, R76: a read of the dispatcher asks it once, with the layout of the address (linear I/O) or of `io_layout`
(the `$D000` zone) and the low 12 bits of the address, and answers `OK` and the dispatcher's byte: the next scripted answer,
or the free value `Config.ioAnswer` when none is left (log entry 3). Nothing of the block changes but the operation's
slot. -/
def Obligations.ReadOfDeviceAsksDispatcher : Prop :=
  ∀ (i : Instr) (s : State) (x : Access) (layout : Layout) (a : IoLocal) (v : Byte),
    isAccessRead i = true → s.run = .running → transparent params s → accessOf params i s = some x →
    deviceOf params x s = some (layout, a) →
    ((∃ rest, s.ioAnswers = v :: rest) ∨ s.ioAnswers = [] ∧ v = Config.ioAnswer s.events layout a) →
    exec i s = .next
      { slotFilled params i s with
        ioAnswers := s.ioAnswers.tail
        rsp := some (0x00#8 ++ v)
        events := s.events ++ [.ioRead layout a v, .response (0x00#8 ++ v)] }

/-- R134, R135, R138, R245 with the operations' rules R242, R250, R263, R265, R272, R274: on a running block with a
transparent cache, `CPU_WRITE`, `FLAT_WRITE`, `DMA_SRC_WRITE`, `DMA_TGT_WRITE`, `DBG_LIN_WRITE` and `DBG_CPU_WRITE` at an
address that may be stored to answer `OK`, the address reads as the byte written, every address with another canonical
address reads as before, and nothing else changes but the operation's own slot. -/
def Obligations.WriteStoresByte : Prop :=
  ∀ (i : Instr) (s : State) (x : Access),
    isAccessWrite i = true → s.run = .running → transparent params s → accessOf params i s = some x → mayStore x s →
    ∃ t, exec i s = .next t ∧
      t = { slotFilled params i s with
            mem := t.mem, rsp := some 0x0000#16, events := s.events ++ [.response 0x0000#16] } ∧
      memRead params x.target t = x.data ∧
      ∀ l, canon params.regionTable l.toNat ≠ canon params.regionTable x.target.toNat →
        memRead params l t = memRead params l s

/-- R136, R138, R275: a write to protected ROM, on every path, and a write of normal mode to a privileged-only region are
dropped with `OK`: no byte of the store changes, and nothing else does but the operation's slot. -/
def Obligations.ForbiddenWriteIsDropped : Prop :=
  ∀ (i : Instr) (s : State) (x : Access),
    isAccessWrite i = true → s.run = .running → transparent params s → accessOf params i s = some x →
    (x.page.handler = .romRo ∨ seesDummy x s) →
    exec i s = .next
      { slotFilled params i s with rsp := some 0x0000#16, events := s.events ++ [.response 0x0000#16] }

/-- R245, R246: `CPU_WRITE` and `DBG_CPU_WRITE` of offset 0 or 1 of the zero page write the port register, invalidate exactly
the page slots of the banked zones whose entry changed, and touch no byte of the store. -/
def Obligations.WriteOfPortSetsRegister : Prop :=
  ∀ (i : Instr) (s : State) (x : Access),
    isAccessWrite i = true → s.run = .running → transparent params s → pagesWf s → accessOf params i s = some x →
    x.page.handler = .zp → (x.offset = 0#8 ∨ x.offset = 1#8) →
    ∃ t, exec i s = .next t ∧
      t = { s with
            portDdr := if x.offset = 0#8 then x.data else s.portDdr
            portData := if x.offset = 1#8 then x.data else s.portData
            pslots := t.pslots
            rsp := some 0x0000#16
            events := s.events ++ [.response 0x0000#16] } ∧
      ∀ p, (zoneChanged params s t p → pslotAt p t = none) ∧
        (¬ zoneChanged params s t p → pslotAt p t = pslotAt p (slotFilled params i s))

/-- R246: while block 0 is not map-active, `CPU_WRITE $0000` and `$0001` have exactly the effect of `PORT_WRITE #0` and `#1`
on the state in which page 0 is resolved. -/
def Obligations.ZeroPageWriteIsPortWrite : Prop :=
  ∀ (s : State) (v : Byte) (pc : CpuPc), s.run = .running → transparent params s → mapEntry s.map 0#3 = none →
    exec (.cpuWrite 0x0000#16 v pc) s = exec (.portWrite .ddr v) (slotFilled params (.cpuWrite 0x0000#16 v pc) s) ∧
    exec (.cpuWrite 0x0001#16 v pc) s = exec (.portWrite .data v) (slotFilled params (.cpuWrite 0x0001#16 v pc) s)

/-- R139, R140, R76: a write to the dispatcher hands it one byte, with the layout and local address as for a read, and
answers `OK`; nothing of the block changes but the operation's slot. -/
def Obligations.WriteOfDeviceCallsDispatcher : Prop :=
  ∀ (i : Instr) (s : State) (x : Access) (layout : Layout) (a : IoLocal),
    isAccessWrite i = true → s.run = .running → transparent params s → accessOf params i s = some x →
    deviceOf params x s = some (layout, a) →
    exec i s = .next
      { slotFilled params i s with
        rsp := some 0x0000#16
        events := s.events ++ [.ioWrite layout a x.data, .response 0x0000#16] }

/-- R142, R284: an access to an address with no backing device. While `unmapped_mode` is `SILENT` it answers `OK_DUMMY` with
no report. While it is `ASK` it reports the linear address, `req.pc` and the direction, and the prompt's choice `c` (the
next scripted one, or the free value `Config.promptChoice`, log entry 4) decides: 0 and 3 halt the block with its record, 1
answers the dummy, 2 answers the dummy and silences the block. The store is never touched. -/
def Obligations.UnmappedAccessFollowsChoice : Prop :=
  ∀ (i : Instr) (s : State) (x : Access) (w : Bool) (r : Response) (c : Choice),
    (isAccessRead i = true ∧ w = false ∧ r = 0x01FF#16 ∨ isAccessWrite i = true ∧ w = true ∧ r = 0x0100#16) →
    s.run = .running → transparent params s → accessOf params i s = some x → x.page.handler = .unmapped →
    ((∃ rest, s.choices = c :: rest) ∨ s.choices = [] ∧ c = Config.promptChoice s.events x.target x.pc w) →
    (s.unmappedMode = .silent →
      exec i s = .next { slotFilled params i s with rsp := some r, events := s.events ++ [.response r] }) ∧
    (s.unmappedMode = .ask → (c = 0#2 ∨ c = 3#2) →
      exec i s = .next
        { slotFilled params i s with
          choices := s.choices.tail
          run := .halted .abort (x.target.setWidth 32) x.pc
          rsp := none
          events := s.events ++ [.unmappedReport x.target x.pc w c, .halt .abort (x.target.setWidth 32) x.pc] }) ∧
    (s.unmappedMode = .ask → (c = 1#2 ∨ c = 2#2) →
      exec i s = .next
        { slotFilled params i s with
          choices := s.choices.tail
          unmappedMode := if c = 2#2 then .silent else .ask
          rsp := some r
          events := s.events ++ [.unmappedReport x.target x.pc w c, .response r] })

/-- R282: any of the nine format-L operations (`FLAT_READ`, `FLAT_WRITE`, `DMA_LIST_READ`, `DMA_SRC_READ`, `DMA_SRC_WRITE`,
`DMA_TGT_READ`, `DMA_TGT_WRITE`, `DBG_LIN_READ`, `DBG_LIN_WRITE`) with an address of 2^28 or more halts a running block with
the full address and `req.pc`, gives no response and changes nothing else, its slot among it; no other operation can. -/
def Obligations.ImpossibleAddressHalts : Prop :=
  (∀ (i : Instr) (s : State) (a : WideAddr) (k : SpecialSlot) (pc : CpuPc),
    linearOperand i = some (a, k, pc) → s.run = .running → 2 ^ 28 ≤ a.toNat →
    exec i s = .next
      { s with run := .halted .impossible a pc, rsp := none, events := s.events ++ [.halt .impossible a pc] }) ∧
  (∀ (i : Instr) (s t : State), linearOperand i = none → s.run = .running → exec i s = .next t →
    ∀ a pc, t.run ≠ .halted .impossible a pc)

/-! ### Laws of the paths -/

/-- R226, R266(a): in a state with a transparent cache a linear operation leaves every page slot and every special slot but
its own as it was. -/
def Obligations.LinearAccessKeepsOtherSlots : Prop :=
  ∀ (i : Instr) (s t : State) (a : WideAddr) (k : SpecialSlot) (pc : CpuPc),
    transparent params s → linearOperand i = some (a, k, pc) → exec i s = .next t →
    t.pslots = s.pslots ∧ ∀ j, j ≠ k → sslotAt j t = sslotAt j s

/-- R77, R241, R180: no operation but the six writes of the access paths changes the store. -/
def Obligations.OnlyAccessWritesChangeStore : Prop :=
  ∀ (i : Instr) (s t : State), isAccessWrite i = false → exec i s = .next t → t.mem = s.mem

/-- R266(b), R84, R70 (the spec's inferences from R72 and R80): one store for all paths. A byte written by any of the six
writes is what any of the seven reads answers next, when the two addresses have one canonical address: round trips, CPU
and DMA coherence and the shared window alike. -/
def Obligations.WrittenByteIsSeenOnEveryPath : Prop :=
  ∀ (i j : Instr) (s : State) (x y : Access),
    isAccessWrite i = true → isAccessRead j = true → s.run = .running → transparent params s →
    accessOf params i s = some x → accessOf params j s = some y → mayStore x s → reachesStore y s →
    canon params.regionTable y.target.toNat = canon params.regionTable x.target.toNat →
    ∃ t u, exec i s = .next t ∧ exec j t = .next u ∧ u.rsp = some (0x00#8 ++ x.data)

/-- R252 (the spec's inference from the handlers): `CPU_WRITE` followed at once by `CPU_READ` of the same address returns the
byte where the handler stores and at the port; the old byte at protected ROM; 0xFF in the dummy view. -/
def Obligations.CpuRoundTrip : Prop :=
  ∀ (s : State) (a : CpuAddr) (v : Byte) (pc pc' : CpuPc),
    s.run = .running → transparent params s → pagesWf s →
    ∃ t u, exec (.cpuWrite a v pc) s = .next t ∧ exec (.cpuRead a pc') t = .next u ∧
      (mayStore (cpuAccess params a v false pc s) s ∨ (cpuAccess params a v false pc s).page.handler = .zp →
        u.rsp = some (0x00#8 ++ v)) ∧
      ((cpuAccess params a v false pc s).page.handler = .romRo →
        u.rsp = some (0x00#8 ++ memRead params (cpuAccess params a v false pc s).target s)) ∧
      (seesDummy (cpuAccess params a v false pc s) s → u.rsp = some 0x00FF#16)

/-- R276(a), (b) (the spec's inference from R270): a debug operation has the response, the events and the effect on the state
of its counterpart, up to which slot is touched, when the block is privileged or the page's handler is not the
privileged-only one. -/
def Obligations.DebugOperationMatchesCounterpart : Prop :=
  ∀ (i j : Instr) (s : State), debugCounterpart i = some j → transparent params s →
    (s.priv = true ∨ ∀ x, accessOf params i s = some x → x.page.handler ≠ .priv) →
    ∃ t u, exec i s = .next t ∧ exec j s = .next u ∧ dropCache t = dropCache u

/-- R119: `COPY_BYTE` between two addresses that reach the store leaves at the target the byte the source held, and no byte
with another canonical address changes. -/
def Obligations.CopyByteCopies : Prop :=
  ∀ (s : State) (src dst : WideAddr) (pc : CpuPc) (x y : Access), s.run = .running → transparent params s →
    linearAccess params src 0x00#8 false pc s = some x → linearAccess params dst 0x00#8 false pc s = some y →
    reachesStore x s → mayStore y s →
    ∃ t, copyByte src dst pc s = .next t ∧ t.rsp = some 0x0000#16 ∧
      memRead params y.target t = memRead params x.target s ∧
      ∀ l, canon params.regionTable l.toNat ≠ canon params.regionTable y.target.toNat →
        memRead params l t = memRead params l s

/-! ### Whole-machine rules -/

/-- R297, R136: while ROM write-protection is on no operation of any requester, privileged or debug, changes a byte of a
shadow-ROM region. -/
def Obligations.ProtectedRomNeverChanges : Prop :=
  ∀ (i : Instr) (s t : State), blockInv params s → s.romWp = true → exec i s = .next t →
    ∀ l : LinAddr, kindAt params.regionTable l.toNat = .shadowRom → memRead params l t = memRead params l s

/-- R138, R295: in normal mode no operation but those of the debug path changes a byte of a privileged-only region. -/
def Obligations.NormalModeCannotChangePrivateMemory : Prop :=
  ∀ (i : Instr) (s t : State), blockInv params s → s.priv = false → isDebug i = false → exec i s = .next t →
    ∀ l : LinAddr, isPrivate (kindAt params.regionTable l.toNat) = true → memRead params l t = memRead params l s

/-- R138, R295, R14's 'inaccessible to normal program execution': in normal mode no operation but those of the debug path
tells apart two states that differ only in the bytes of privileged-only regions: the same responses, events, registers and
slots, and the stores still differ there only. -/
def Obligations.NormalModeCannotSeePrivateMemory : Prop :=
  ∀ (i : Instr) (s u t v : State), blockInv params s → s.priv = false → isDebug i = false →
    u = { s with mem := u.mem } →
    (∀ l : LinAddr, isPrivate (kindAt params.regionTable l.toNat) = false → memRead params l u = memRead params l s) →
    exec i s = .next t → exec i u = .next v →
    v = { t with mem := v.mem } ∧
    ∀ l : LinAddr, isPrivate (kindAt params.regionTable l.toNat) = false → memRead params l v = memRead params l t

/-- R280, R282, R284, R290: what can halt a running block, in a state with a transparent cache. No configuration operation; a
linear operation with an address outside the linear space, which halts with that address and its pc; an access whose page's
handler is the unmapped one, while the block asks, which halts with the linear address of that access and its pc. -/
def Obligations.HaltsHaveTwoCauses : Prop :=
  ∀ (i : Instr) (s t : State), transparent params s → exec i s = .next t → t.run ≠ s.run →
    isConfiguration i = false ∧
    ((∃ a k pc, linearOperand i = some (a, k, pc) ∧ 2 ^ 28 ≤ a.toNat ∧ t.run = .halted .impossible a pc) ∨
      (s.unmappedMode = .ask ∧ ∃ x, accessOf params i s = some x ∧ x.page.handler = .unmapped ∧
        t.run = .halted .abort (x.target.setWidth 32) x.pc))

/-- R284: `unmapped_mode` goes from `ASK` to `SILENT` by an access operation and never back by any operation; while it is
`SILENT` no report is emitted. -/
def Obligations.SilenceLastsUntilReset : Prop :=
  ∀ (i : Instr) (s t : State), exec i s = .next t →
    (s.unmappedMode = .silent → t.unmappedMode = .silent ∧ t.choices = s.choices ∧
      ∀ l pc w c, Event.unmappedReport l pc w c ∈ t.events → Event.unmappedReport l pc w c ∈ s.events) ∧
    (t.unmappedMode ≠ s.unmappedMode → s.unmappedMode = .ask ∧ isConfiguration i = false)

/-- R80, R286 with the model's choices: no operation suspends, blocks or is cancelled, and every step of the model answers a
next state. That it does so with an empty inbox too (log entry 1), on an illegal request (log entry 9) and in a halted block
(log entry 10), which R115 and R289 let a model refuse, and that no error stops the model (log entry 23), are the model's
choices. -/
def Obligations.EveryStepAnswers : Prop := ∀ s : State, ∃ t, step s = .next t

/-! ### Invariants and the transparent cache -/

/-- R230, for every instance of the parameters: every step keeps the slot cache transparent (and its canonical form). -/
def Obligations.TransparencyIsKept : Prop :=
  ∀ (P : Params) (s t : State), pagesWf s → transparent P s → stepAt P s = .next t → pagesWf t ∧ transparent P t

/-- R230, R231, R38, for every instance of the parameters: two blocks that differ only in what their transparent caches hold
(nothing at all, for one) give the same responses, events and store, step by step; so dropping the cache, or invalidating
any slot at any time, cannot be seen. -/
def Obligations.CachesAreInvisible : Prop :=
  ∀ (P : Params) (s u : State), transparent P s → transparent P u → dropCache s = dropCache u →
    ∃ t v, stepAt P s = .next t ∧ stepAt P u = .next v ∧ dropCache t = dropCache v

/-- R33, R193, R230: every step keeps the invariant of the block: the cache transparent and canonical, the map's offsets
multiples of 256, the store in canonical form and listing canonical storage addresses only. -/
def Obligations.BlockInvariantIsKept : Prop :=
  ∀ s t : State, blockInv params s → step s = .next t → blockInv params t

/-- R39, R230, R193: the invariant of the block holds right after reset. -/
def Obligations.BlockInvariantHoldsAtReset : Prop := blockInv params State.reset
end

