-- ==== Sys2Proof/Laws/Assoc.lean ====
section
/-! SUPPORT. The laws of the sparse lists: what a write shows at its own key and at every other, what unlisting leaves, and
that both keep the canonical form. -/

namespace Sys2Proof.Machine

@[simp] theorem assocGet_nil {α : Type} (k : Nat) : assocGet k ([] : List (Nat × α)) = none := rfl

theorem assocGet_cons {α : Type} (k : Nat) (e : Nat × α) (m : List (Nat × α)) :
    assocGet k (e :: m) = if e.1 = k then some e.2 else assocGet k m := rfl

/-- A read after a write of the same key. -/
@[simp] theorem assocGet_put_self {α : Type} (k : Nat) (v : α) (m : List (Nat × α)) :
    assocGet k (assocPut k v m) = some v := by
  induction m with
  | nil => simp [assocPut, assocGet]
  | cons e m ih =>
    unfold assocPut
    split
    · simp [assocGet]
    · split
      · simp [assocGet]
      · rw [assocGet_cons, if_neg (by omega), ih]

/-- A write leaves every other key alone. -/
theorem assocGet_put_ne {α : Type} {j k : Nat} (h : j ≠ k) (v : α) (m : List (Nat × α)) :
    assocGet j (assocPut k v m) = assocGet j m := by
  induction m with
  | nil => simp [assocPut, assocGet, h.symm]
  | cons e m ih =>
    unfold assocPut
    split
    · rw [assocGet_cons, if_neg (by simpa using h.symm)]
    · split
      · next he =>
        rw [assocGet_cons, if_neg (by simpa using h.symm), assocGet_cons, if_neg (by omega)]
      · rw [assocGet_cons, ih, assocGet_cons]

/-- A key below every listed one has no value. -/
theorem assocGet_none_of_rising {α : Type} {m : List (Nat × α)} :
    ∀ {lo k : Nat}, assocRisingFrom lo m = true → k < lo → assocGet k m = none := by
  induction m with
  | nil => intros; rfl
  | cons e m ih =>
    intro lo k h hk
    simp only [assocRisingFrom, Bool.and_eq_true, decide_eq_true_eq] at h
    rw [assocGet_cons, if_neg (by omega)]
    exact ih h.2 (by omega)

theorem assocRisingFrom_mono {α : Type} {m : List (Nat × α)} {a b : Nat} (h : assocRisingFrom b m = true) (hab : a ≤ b) :
    assocRisingFrom a m = true := by
  cases m with
  | nil => rfl
  | cons e m =>
    simp only [assocRisingFrom, Bool.and_eq_true, decide_eq_true_eq] at h ⊢
    exact ⟨by omega, h.2⟩

theorem assocRisingFrom_put {α : Type} (k : Nat) (v : α) {m : List (Nat × α)} :
    ∀ {lo : Nat}, assocRisingFrom lo m = true → lo ≤ k → assocRisingFrom lo (assocPut k v m) = true := by
  induction m with
  | nil => intro lo _ hk; simp [assocPut, assocRisingFrom, hk]
  | cons e m ih =>
    intro lo h hk
    simp only [assocRisingFrom, Bool.and_eq_true, decide_eq_true_eq] at h
    unfold assocPut
    split
    · simp only [assocRisingFrom, Bool.and_eq_true, decide_eq_true_eq]
      exact ⟨hk, by omega, h.2⟩
    · split
      · next he =>
        simp only [assocRisingFrom, Bool.and_eq_true, decide_eq_true_eq]
        exact ⟨hk, he ▸ h.2⟩
      · simp only [assocRisingFrom, Bool.and_eq_true, decide_eq_true_eq]
        exact ⟨h.1, ih h.2 (by omega)⟩

/-- A write keeps the canonical form. -/
theorem assocRising_put {α : Type} (k : Nat) (v : α) {m : List (Nat × α)} (h : assocRising m = true) :
    assocRising (assocPut k v m) = true :=
  assocRisingFrom_put k v h (Nat.zero_le k)

theorem assocRisingFrom_drop {α : Type} (sel : Nat → α → Bool) {m : List (Nat × α)} :
    ∀ {lo : Nat}, assocRisingFrom lo m = true → assocRisingFrom lo (assocDrop sel m) = true := by
  induction m with
  | nil => intros; rfl
  | cons e m ih =>
    intro lo h
    simp only [assocRisingFrom, Bool.and_eq_true, decide_eq_true_eq] at h
    unfold assocDrop at ih ⊢
    rw [List.filter_cons]
    split
    · simp only [assocRisingFrom, Bool.and_eq_true, decide_eq_true_eq]
      exact ⟨h.1, ih h.2⟩
    · exact assocRisingFrom_mono (ih h.2) (by omega)

/-- Unlisting keeps the canonical form. -/
theorem assocRising_drop {α : Type} (sel : Nat → α → Bool) {m : List (Nat × α)} (h : assocRising m = true) :
    assocRising (assocDrop sel m) = true :=
  assocRisingFrom_drop sel h

theorem assocGet_dropFrom {α : Type} (sel : Nat → α → Bool) (k : Nat) {m : List (Nat × α)} :
    ∀ {lo : Nat}, assocRisingFrom lo m = true →
      assocGet k (assocDrop sel m) = (assocGet k m).filter fun v => !sel k v := by
  induction m with
  | nil => intros; rfl
  | cons e m ih =>
    intro lo h
    simp only [assocRisingFrom, Bool.and_eq_true, decide_eq_true_eq] at h
    have hih := ih h.2
    unfold assocDrop at hih ⊢
    rw [List.filter_cons, assocGet_cons]
    by_cases hk : e.1 = k
    · subst hk
      rw [if_pos rfl]
      have hnone := assocGet_none_of_rising h.2 (Nat.lt_succ_self e.1)
      cases hs : sel e.1 e.2
      · simp [assocGet_cons, Option.filter, hs]
      · simp [Option.filter, hs, hih, hnone]
    · rw [if_neg hk]
      split
      · rw [assocGet_cons, if_neg hk, hih]
      · exact hih

/-- What unlisting leaves at a key of a canonical list: its value, unless that was selected. -/
theorem assocGet_drop {α : Type} (sel : Nat → α → Bool) (k : Nat) {m : List (Nat × α)} (h : assocRising m = true) :
    assocGet k (assocDrop sel m) = (assocGet k m).filter fun v => !sel k v :=
  assocGet_dropFrom sel k h

/-- Every pair listed after a write is the written one or was listed before. -/
theorem mem_assocPut {α : Type} {k : Nat} {v : α} {m : List (Nat × α)} {e : Nat × α} (h : e ∈ assocPut k v m) :
    e = (k, v) ∨ e ∈ m := by
  induction m with
  | nil => left; simpa [assocPut] using h
  | cons x m ih =>
    unfold assocPut at h
    split at h
    · simpa using h
    · split at h
      · rcases List.mem_cons.1 h with h | h
        · exact Or.inl h
        · exact Or.inr (List.mem_cons_of_mem _ h)
      · rcases List.mem_cons.1 h with h | h
        · exact Or.inr (h ▸ List.mem_cons_self)
        · rcases ih h with h | h
          · exact Or.inl h
          · exact Or.inr (List.mem_cons_of_mem _ h)

/-- Every pair listed after unlisting was listed before. -/
theorem mem_assocDrop {α : Type} {sel : Nat → α → Bool} {m : List (Nat × α)} {e : Nat × α} (h : e ∈ assocDrop sel m) :
    e ∈ m :=
  (List.mem_filter.1 h).1

/-- A listed key's value is listed. -/
theorem mem_of_assocGet {α : Type} {k : Nat} {v : α} {m : List (Nat × α)} (h : assocGet k m = some v) : (k, v) ∈ m := by
  induction m with
  | nil => simp at h
  | cons e m ih =>
    rw [assocGet_cons] at h
    split at h
    · next he =>
      have : e.2 = v := by simpa using h
      subst he this
      exact List.mem_cons_self
    · exact List.mem_cons_of_mem _ (ih h)

end Sys2Proof.Machine
end

