-- ==== Sys2Proof/Laws/State.lean ====
section
/-! SUPPORT. The field lemmas of State: what each update of the state does to each field, so that no proof unfolds a record
update. All are true by computation; the ones that hold of an update with a case split split it once, here. -/

namespace Sys2Proof.Machine

/-! ### emit -/

@[simp] theorem emit_portDdr (e : Event) (s : State) : (emit e s).portDdr = s.portDdr := rfl
@[simp] theorem emit_portData (e : Event) (s : State) : (emit e s).portData = s.portData := rfl
@[simp] theorem emit_romvis (e : Event) (s : State) : (emit e s).romvis = s.romvis := rfl
@[simp] theorem emit_priv (e : Event) (s : State) : (emit e s).priv = s.priv := rfl
@[simp] theorem emit_ioLayout (e : Event) (s : State) : (emit e s).ioLayout = s.ioLayout := rfl
@[simp] theorem emit_romWp (e : Event) (s : State) : (emit e s).romWp = s.romWp := rfl
@[simp] theorem emit_map (e : Event) (s : State) : (emit e s).map = s.map := rfl
@[simp] theorem emit_irqInhibit (e : Event) (s : State) : (emit e s).irqInhibit = s.irqInhibit := rfl
@[simp] theorem emit_pslots (e : Event) (s : State) : (emit e s).pslots = s.pslots := rfl
@[simp] theorem emit_sslots (e : Event) (s : State) : (emit e s).sslots = s.sslots := rfl
@[simp] theorem emit_mem (e : Event) (s : State) : (emit e s).mem = s.mem := rfl
@[simp] theorem emit_unmappedMode (e : Event) (s : State) : (emit e s).unmappedMode = s.unmappedMode := rfl
@[simp] theorem emit_run (e : Event) (s : State) : (emit e s).run = s.run := rfl
@[simp] theorem emit_inbox (e : Event) (s : State) : (emit e s).inbox = s.inbox := rfl
@[simp] theorem emit_ioAnswers (e : Event) (s : State) : (emit e s).ioAnswers = s.ioAnswers := rfl
@[simp] theorem emit_choices (e : Event) (s : State) : (emit e s).choices = s.choices := rfl
@[simp] theorem emit_rsp (e : Event) (s : State) : (emit e s).rsp = s.rsp := rfl
@[simp] theorem emit_events (e : Event) (s : State) : (emit e s).events = s.events ++ [e] := rfl

/-! ### memWrite -/

@[simp] theorem memWrite_portDdr (P : Params) (l : LinAddr) (v : Byte) (s : State) : (memWrite P l v s).portDdr = s.portDdr := rfl
@[simp] theorem memWrite_portData (P : Params) (l : LinAddr) (v : Byte) (s : State) : (memWrite P l v s).portData = s.portData := rfl
@[simp] theorem memWrite_romvis (P : Params) (l : LinAddr) (v : Byte) (s : State) : (memWrite P l v s).romvis = s.romvis := rfl
@[simp] theorem memWrite_priv (P : Params) (l : LinAddr) (v : Byte) (s : State) : (memWrite P l v s).priv = s.priv := rfl
@[simp] theorem memWrite_ioLayout (P : Params) (l : LinAddr) (v : Byte) (s : State) : (memWrite P l v s).ioLayout = s.ioLayout := rfl
@[simp] theorem memWrite_romWp (P : Params) (l : LinAddr) (v : Byte) (s : State) : (memWrite P l v s).romWp = s.romWp := rfl
@[simp] theorem memWrite_map (P : Params) (l : LinAddr) (v : Byte) (s : State) : (memWrite P l v s).map = s.map := rfl
@[simp] theorem memWrite_irqInhibit (P : Params) (l : LinAddr) (v : Byte) (s : State) : (memWrite P l v s).irqInhibit = s.irqInhibit := rfl
@[simp] theorem memWrite_pslots (P : Params) (l : LinAddr) (v : Byte) (s : State) : (memWrite P l v s).pslots = s.pslots := rfl
@[simp] theorem memWrite_sslots (P : Params) (l : LinAddr) (v : Byte) (s : State) : (memWrite P l v s).sslots = s.sslots := rfl
@[simp] theorem memWrite_mem (P : Params) (l : LinAddr) (v : Byte) (s : State) : (memWrite P l v s).mem = assocPut (canon P.regionTable l.toNat) v s.mem := rfl
@[simp] theorem memWrite_unmappedMode (P : Params) (l : LinAddr) (v : Byte) (s : State) : (memWrite P l v s).unmappedMode = s.unmappedMode := rfl
@[simp] theorem memWrite_run (P : Params) (l : LinAddr) (v : Byte) (s : State) : (memWrite P l v s).run = s.run := rfl
@[simp] theorem memWrite_inbox (P : Params) (l : LinAddr) (v : Byte) (s : State) : (memWrite P l v s).inbox = s.inbox := rfl
@[simp] theorem memWrite_ioAnswers (P : Params) (l : LinAddr) (v : Byte) (s : State) : (memWrite P l v s).ioAnswers = s.ioAnswers := rfl
@[simp] theorem memWrite_choices (P : Params) (l : LinAddr) (v : Byte) (s : State) : (memWrite P l v s).choices = s.choices := rfl
@[simp] theorem memWrite_rsp (P : Params) (l : LinAddr) (v : Byte) (s : State) : (memWrite P l v s).rsp = s.rsp := rfl
@[simp] theorem memWrite_events (P : Params) (l : LinAddr) (v : Byte) (s : State) : (memWrite P l v s).events = s.events := rfl

/-! ### setPslot -/

@[simp] theorem setPslot_portDdr (p : PageNo) (r : Resolved) (s : State) : (setPslot p r s).portDdr = s.portDdr := rfl
@[simp] theorem setPslot_portData (p : PageNo) (r : Resolved) (s : State) : (setPslot p r s).portData = s.portData := rfl
@[simp] theorem setPslot_romvis (p : PageNo) (r : Resolved) (s : State) : (setPslot p r s).romvis = s.romvis := rfl
@[simp] theorem setPslot_priv (p : PageNo) (r : Resolved) (s : State) : (setPslot p r s).priv = s.priv := rfl
@[simp] theorem setPslot_ioLayout (p : PageNo) (r : Resolved) (s : State) : (setPslot p r s).ioLayout = s.ioLayout := rfl
@[simp] theorem setPslot_romWp (p : PageNo) (r : Resolved) (s : State) : (setPslot p r s).romWp = s.romWp := rfl
@[simp] theorem setPslot_map (p : PageNo) (r : Resolved) (s : State) : (setPslot p r s).map = s.map := rfl
@[simp] theorem setPslot_irqInhibit (p : PageNo) (r : Resolved) (s : State) : (setPslot p r s).irqInhibit = s.irqInhibit := rfl
@[simp] theorem setPslot_pslots (p : PageNo) (r : Resolved) (s : State) : (setPslot p r s).pslots = assocPut p.toNat r s.pslots := rfl
@[simp] theorem setPslot_sslots (p : PageNo) (r : Resolved) (s : State) : (setPslot p r s).sslots = s.sslots := rfl
@[simp] theorem setPslot_mem (p : PageNo) (r : Resolved) (s : State) : (setPslot p r s).mem = s.mem := rfl
@[simp] theorem setPslot_unmappedMode (p : PageNo) (r : Resolved) (s : State) : (setPslot p r s).unmappedMode = s.unmappedMode := rfl
@[simp] theorem setPslot_run (p : PageNo) (r : Resolved) (s : State) : (setPslot p r s).run = s.run := rfl
@[simp] theorem setPslot_inbox (p : PageNo) (r : Resolved) (s : State) : (setPslot p r s).inbox = s.inbox := rfl
@[simp] theorem setPslot_ioAnswers (p : PageNo) (r : Resolved) (s : State) : (setPslot p r s).ioAnswers = s.ioAnswers := rfl
@[simp] theorem setPslot_choices (p : PageNo) (r : Resolved) (s : State) : (setPslot p r s).choices = s.choices := rfl
@[simp] theorem setPslot_rsp (p : PageNo) (r : Resolved) (s : State) : (setPslot p r s).rsp = s.rsp := rfl
@[simp] theorem setPslot_events (p : PageNo) (r : Resolved) (s : State) : (setPslot p r s).events = s.events := rfl

/-! ### setSslot -/

@[simp] theorem setSslot_portDdr (k : SpecialSlot) (r : Resolved) (s : State) : (setSslot k r s).portDdr = s.portDdr := rfl
@[simp] theorem setSslot_portData (k : SpecialSlot) (r : Resolved) (s : State) : (setSslot k r s).portData = s.portData := rfl
@[simp] theorem setSslot_romvis (k : SpecialSlot) (r : Resolved) (s : State) : (setSslot k r s).romvis = s.romvis := rfl
@[simp] theorem setSslot_priv (k : SpecialSlot) (r : Resolved) (s : State) : (setSslot k r s).priv = s.priv := rfl
@[simp] theorem setSslot_ioLayout (k : SpecialSlot) (r : Resolved) (s : State) : (setSslot k r s).ioLayout = s.ioLayout := rfl
@[simp] theorem setSslot_romWp (k : SpecialSlot) (r : Resolved) (s : State) : (setSslot k r s).romWp = s.romWp := rfl
@[simp] theorem setSslot_map (k : SpecialSlot) (r : Resolved) (s : State) : (setSslot k r s).map = s.map := rfl
@[simp] theorem setSslot_irqInhibit (k : SpecialSlot) (r : Resolved) (s : State) : (setSslot k r s).irqInhibit = s.irqInhibit := rfl
@[simp] theorem setSslot_pslots (k : SpecialSlot) (r : Resolved) (s : State) : (setSslot k r s).pslots = s.pslots := rfl
@[simp] theorem setSslot_sslots (k : SpecialSlot) (r : Resolved) (s : State) : (setSslot k r s).sslots = specialPut k (some r) s.sslots := rfl
@[simp] theorem setSslot_mem (k : SpecialSlot) (r : Resolved) (s : State) : (setSslot k r s).mem = s.mem := rfl
@[simp] theorem setSslot_unmappedMode (k : SpecialSlot) (r : Resolved) (s : State) : (setSslot k r s).unmappedMode = s.unmappedMode := rfl
@[simp] theorem setSslot_run (k : SpecialSlot) (r : Resolved) (s : State) : (setSslot k r s).run = s.run := rfl
@[simp] theorem setSslot_inbox (k : SpecialSlot) (r : Resolved) (s : State) : (setSslot k r s).inbox = s.inbox := rfl
@[simp] theorem setSslot_ioAnswers (k : SpecialSlot) (r : Resolved) (s : State) : (setSslot k r s).ioAnswers = s.ioAnswers := rfl
@[simp] theorem setSslot_choices (k : SpecialSlot) (r : Resolved) (s : State) : (setSslot k r s).choices = s.choices := rfl
@[simp] theorem setSslot_rsp (k : SpecialSlot) (r : Resolved) (s : State) : (setSslot k r s).rsp = s.rsp := rfl
@[simp] theorem setSslot_events (k : SpecialSlot) (r : Resolved) (s : State) : (setSslot k r s).events = s.events := rfl

/-! ### invalidatePages -/

@[simp] theorem invalidatePages_portDdr (sel : PageNo → Resolved → Bool) (s : State) : (invalidatePages sel s).portDdr = s.portDdr := rfl
@[simp] theorem invalidatePages_portData (sel : PageNo → Resolved → Bool) (s : State) : (invalidatePages sel s).portData = s.portData := rfl
@[simp] theorem invalidatePages_romvis (sel : PageNo → Resolved → Bool) (s : State) : (invalidatePages sel s).romvis = s.romvis := rfl
@[simp] theorem invalidatePages_priv (sel : PageNo → Resolved → Bool) (s : State) : (invalidatePages sel s).priv = s.priv := rfl
@[simp] theorem invalidatePages_ioLayout (sel : PageNo → Resolved → Bool) (s : State) : (invalidatePages sel s).ioLayout = s.ioLayout := rfl
@[simp] theorem invalidatePages_romWp (sel : PageNo → Resolved → Bool) (s : State) : (invalidatePages sel s).romWp = s.romWp := rfl
@[simp] theorem invalidatePages_map (sel : PageNo → Resolved → Bool) (s : State) : (invalidatePages sel s).map = s.map := rfl
@[simp] theorem invalidatePages_irqInhibit (sel : PageNo → Resolved → Bool) (s : State) : (invalidatePages sel s).irqInhibit = s.irqInhibit := rfl
@[simp] theorem invalidatePages_pslots (sel : PageNo → Resolved → Bool) (s : State) : (invalidatePages sel s).pslots = assocDrop (fun k r => sel (BitVec.ofNat 8 k) r) s.pslots := rfl
@[simp] theorem invalidatePages_sslots (sel : PageNo → Resolved → Bool) (s : State) : (invalidatePages sel s).sslots = s.sslots := rfl
@[simp] theorem invalidatePages_mem (sel : PageNo → Resolved → Bool) (s : State) : (invalidatePages sel s).mem = s.mem := rfl
@[simp] theorem invalidatePages_unmappedMode (sel : PageNo → Resolved → Bool) (s : State) : (invalidatePages sel s).unmappedMode = s.unmappedMode := rfl
@[simp] theorem invalidatePages_run (sel : PageNo → Resolved → Bool) (s : State) : (invalidatePages sel s).run = s.run := rfl
@[simp] theorem invalidatePages_inbox (sel : PageNo → Resolved → Bool) (s : State) : (invalidatePages sel s).inbox = s.inbox := rfl
@[simp] theorem invalidatePages_ioAnswers (sel : PageNo → Resolved → Bool) (s : State) : (invalidatePages sel s).ioAnswers = s.ioAnswers := rfl
@[simp] theorem invalidatePages_choices (sel : PageNo → Resolved → Bool) (s : State) : (invalidatePages sel s).choices = s.choices := rfl
@[simp] theorem invalidatePages_rsp (sel : PageNo → Resolved → Bool) (s : State) : (invalidatePages sel s).rsp = s.rsp := rfl
@[simp] theorem invalidatePages_events (sel : PageNo → Resolved → Bool) (s : State) : (invalidatePages sel s).events = s.events := rfl

/-! ### invalidateSpecials -/

@[simp] theorem invalidateSpecials_portDdr (sel : Resolved → Bool) (s : State) : (invalidateSpecials sel s).portDdr = s.portDdr := rfl
@[simp] theorem invalidateSpecials_portData (sel : Resolved → Bool) (s : State) : (invalidateSpecials sel s).portData = s.portData := rfl
@[simp] theorem invalidateSpecials_romvis (sel : Resolved → Bool) (s : State) : (invalidateSpecials sel s).romvis = s.romvis := rfl
@[simp] theorem invalidateSpecials_priv (sel : Resolved → Bool) (s : State) : (invalidateSpecials sel s).priv = s.priv := rfl
@[simp] theorem invalidateSpecials_ioLayout (sel : Resolved → Bool) (s : State) : (invalidateSpecials sel s).ioLayout = s.ioLayout := rfl
@[simp] theorem invalidateSpecials_romWp (sel : Resolved → Bool) (s : State) : (invalidateSpecials sel s).romWp = s.romWp := rfl
@[simp] theorem invalidateSpecials_map (sel : Resolved → Bool) (s : State) : (invalidateSpecials sel s).map = s.map := rfl
@[simp] theorem invalidateSpecials_irqInhibit (sel : Resolved → Bool) (s : State) : (invalidateSpecials sel s).irqInhibit = s.irqInhibit := rfl
@[simp] theorem invalidateSpecials_pslots (sel : Resolved → Bool) (s : State) : (invalidateSpecials sel s).pslots = s.pslots := rfl
@[simp] theorem invalidateSpecials_mem (sel : Resolved → Bool) (s : State) : (invalidateSpecials sel s).mem = s.mem := rfl
@[simp] theorem invalidateSpecials_unmappedMode (sel : Resolved → Bool) (s : State) : (invalidateSpecials sel s).unmappedMode = s.unmappedMode := rfl
@[simp] theorem invalidateSpecials_run (sel : Resolved → Bool) (s : State) : (invalidateSpecials sel s).run = s.run := rfl
@[simp] theorem invalidateSpecials_inbox (sel : Resolved → Bool) (s : State) : (invalidateSpecials sel s).inbox = s.inbox := rfl
@[simp] theorem invalidateSpecials_ioAnswers (sel : Resolved → Bool) (s : State) : (invalidateSpecials sel s).ioAnswers = s.ioAnswers := rfl
@[simp] theorem invalidateSpecials_choices (sel : Resolved → Bool) (s : State) : (invalidateSpecials sel s).choices = s.choices := rfl
@[simp] theorem invalidateSpecials_rsp (sel : Resolved → Bool) (s : State) : (invalidateSpecials sel s).rsp = s.rsp := rfl
@[simp] theorem invalidateSpecials_events (sel : Resolved → Bool) (s : State) : (invalidateSpecials sel s).events = s.events := rfl

/-! ### invalidateAll -/

@[simp] theorem invalidateAll_portDdr (sel : Resolved → Bool) (s : State) : (invalidateAll sel s).portDdr = s.portDdr := rfl
@[simp] theorem invalidateAll_portData (sel : Resolved → Bool) (s : State) : (invalidateAll sel s).portData = s.portData := rfl
@[simp] theorem invalidateAll_romvis (sel : Resolved → Bool) (s : State) : (invalidateAll sel s).romvis = s.romvis := rfl
@[simp] theorem invalidateAll_priv (sel : Resolved → Bool) (s : State) : (invalidateAll sel s).priv = s.priv := rfl
@[simp] theorem invalidateAll_ioLayout (sel : Resolved → Bool) (s : State) : (invalidateAll sel s).ioLayout = s.ioLayout := rfl
@[simp] theorem invalidateAll_romWp (sel : Resolved → Bool) (s : State) : (invalidateAll sel s).romWp = s.romWp := rfl
@[simp] theorem invalidateAll_map (sel : Resolved → Bool) (s : State) : (invalidateAll sel s).map = s.map := rfl
@[simp] theorem invalidateAll_irqInhibit (sel : Resolved → Bool) (s : State) : (invalidateAll sel s).irqInhibit = s.irqInhibit := rfl
@[simp] theorem invalidateAll_pslots (sel : Resolved → Bool) (s : State) : (invalidateAll sel s).pslots = assocDrop (fun _ r => sel r) s.pslots := rfl
@[simp] theorem invalidateAll_sslots (sel : Resolved → Bool) (s : State) : (invalidateAll sel s).sslots = (invalidateSpecials sel s).sslots := rfl
@[simp] theorem invalidateAll_mem (sel : Resolved → Bool) (s : State) : (invalidateAll sel s).mem = s.mem := rfl
@[simp] theorem invalidateAll_unmappedMode (sel : Resolved → Bool) (s : State) : (invalidateAll sel s).unmappedMode = s.unmappedMode := rfl
@[simp] theorem invalidateAll_run (sel : Resolved → Bool) (s : State) : (invalidateAll sel s).run = s.run := rfl
@[simp] theorem invalidateAll_inbox (sel : Resolved → Bool) (s : State) : (invalidateAll sel s).inbox = s.inbox := rfl
@[simp] theorem invalidateAll_ioAnswers (sel : Resolved → Bool) (s : State) : (invalidateAll sel s).ioAnswers = s.ioAnswers := rfl
@[simp] theorem invalidateAll_choices (sel : Resolved → Bool) (s : State) : (invalidateAll sel s).choices = s.choices := rfl
@[simp] theorem invalidateAll_rsp (sel : Resolved → Bool) (s : State) : (invalidateAll sel s).rsp = s.rsp := rfl
@[simp] theorem invalidateAll_events (sel : Resolved → Bool) (s : State) : (invalidateAll sel s).events = s.events := rfl

/-! ### afterIoRead -/

@[simp] theorem afterIoRead_portDdr (layout : Layout) (a : IoLocal) (s : State) : (afterIoRead layout a s).portDdr = s.portDdr := rfl
@[simp] theorem afterIoRead_portData (layout : Layout) (a : IoLocal) (s : State) : (afterIoRead layout a s).portData = s.portData := rfl
@[simp] theorem afterIoRead_romvis (layout : Layout) (a : IoLocal) (s : State) : (afterIoRead layout a s).romvis = s.romvis := rfl
@[simp] theorem afterIoRead_priv (layout : Layout) (a : IoLocal) (s : State) : (afterIoRead layout a s).priv = s.priv := rfl
@[simp] theorem afterIoRead_ioLayout (layout : Layout) (a : IoLocal) (s : State) : (afterIoRead layout a s).ioLayout = s.ioLayout := rfl
@[simp] theorem afterIoRead_romWp (layout : Layout) (a : IoLocal) (s : State) : (afterIoRead layout a s).romWp = s.romWp := rfl
@[simp] theorem afterIoRead_map (layout : Layout) (a : IoLocal) (s : State) : (afterIoRead layout a s).map = s.map := rfl
@[simp] theorem afterIoRead_irqInhibit (layout : Layout) (a : IoLocal) (s : State) : (afterIoRead layout a s).irqInhibit = s.irqInhibit := rfl
@[simp] theorem afterIoRead_pslots (layout : Layout) (a : IoLocal) (s : State) : (afterIoRead layout a s).pslots = s.pslots := rfl
@[simp] theorem afterIoRead_sslots (layout : Layout) (a : IoLocal) (s : State) : (afterIoRead layout a s).sslots = s.sslots := rfl
@[simp] theorem afterIoRead_mem (layout : Layout) (a : IoLocal) (s : State) : (afterIoRead layout a s).mem = s.mem := rfl
@[simp] theorem afterIoRead_unmappedMode (layout : Layout) (a : IoLocal) (s : State) : (afterIoRead layout a s).unmappedMode = s.unmappedMode := rfl
@[simp] theorem afterIoRead_run (layout : Layout) (a : IoLocal) (s : State) : (afterIoRead layout a s).run = s.run := rfl
@[simp] theorem afterIoRead_inbox (layout : Layout) (a : IoLocal) (s : State) : (afterIoRead layout a s).inbox = s.inbox := rfl
@[simp] theorem afterIoRead_ioAnswers (layout : Layout) (a : IoLocal) (s : State) : (afterIoRead layout a s).ioAnswers = s.ioAnswers.tail := rfl
@[simp] theorem afterIoRead_choices (layout : Layout) (a : IoLocal) (s : State) : (afterIoRead layout a s).choices = s.choices := rfl
@[simp] theorem afterIoRead_rsp (layout : Layout) (a : IoLocal) (s : State) : (afterIoRead layout a s).rsp = s.rsp := rfl
@[simp] theorem afterIoRead_events (layout : Layout) (a : IoLocal) (s : State) : (afterIoRead layout a s).events = s.events ++ [.ioRead layout a (dispatcherAnswer layout a s)] := rfl

/-! ### ioWrite -/

@[simp] theorem ioWrite_portDdr (layout : Layout) (a : IoLocal) (v : Byte) (s : State) : (ioWrite layout a v s).portDdr = s.portDdr := rfl
@[simp] theorem ioWrite_portData (layout : Layout) (a : IoLocal) (v : Byte) (s : State) : (ioWrite layout a v s).portData = s.portData := rfl
@[simp] theorem ioWrite_romvis (layout : Layout) (a : IoLocal) (v : Byte) (s : State) : (ioWrite layout a v s).romvis = s.romvis := rfl
@[simp] theorem ioWrite_priv (layout : Layout) (a : IoLocal) (v : Byte) (s : State) : (ioWrite layout a v s).priv = s.priv := rfl
@[simp] theorem ioWrite_ioLayout (layout : Layout) (a : IoLocal) (v : Byte) (s : State) : (ioWrite layout a v s).ioLayout = s.ioLayout := rfl
@[simp] theorem ioWrite_romWp (layout : Layout) (a : IoLocal) (v : Byte) (s : State) : (ioWrite layout a v s).romWp = s.romWp := rfl
@[simp] theorem ioWrite_map (layout : Layout) (a : IoLocal) (v : Byte) (s : State) : (ioWrite layout a v s).map = s.map := rfl
@[simp] theorem ioWrite_irqInhibit (layout : Layout) (a : IoLocal) (v : Byte) (s : State) : (ioWrite layout a v s).irqInhibit = s.irqInhibit := rfl
@[simp] theorem ioWrite_pslots (layout : Layout) (a : IoLocal) (v : Byte) (s : State) : (ioWrite layout a v s).pslots = s.pslots := rfl
@[simp] theorem ioWrite_sslots (layout : Layout) (a : IoLocal) (v : Byte) (s : State) : (ioWrite layout a v s).sslots = s.sslots := rfl
@[simp] theorem ioWrite_mem (layout : Layout) (a : IoLocal) (v : Byte) (s : State) : (ioWrite layout a v s).mem = s.mem := rfl
@[simp] theorem ioWrite_unmappedMode (layout : Layout) (a : IoLocal) (v : Byte) (s : State) : (ioWrite layout a v s).unmappedMode = s.unmappedMode := rfl
@[simp] theorem ioWrite_run (layout : Layout) (a : IoLocal) (v : Byte) (s : State) : (ioWrite layout a v s).run = s.run := rfl
@[simp] theorem ioWrite_inbox (layout : Layout) (a : IoLocal) (v : Byte) (s : State) : (ioWrite layout a v s).inbox = s.inbox := rfl
@[simp] theorem ioWrite_ioAnswers (layout : Layout) (a : IoLocal) (v : Byte) (s : State) : (ioWrite layout a v s).ioAnswers = s.ioAnswers := rfl
@[simp] theorem ioWrite_choices (layout : Layout) (a : IoLocal) (v : Byte) (s : State) : (ioWrite layout a v s).choices = s.choices := rfl
@[simp] theorem ioWrite_rsp (layout : Layout) (a : IoLocal) (v : Byte) (s : State) : (ioWrite layout a v s).rsp = s.rsp := rfl
@[simp] theorem ioWrite_events (layout : Layout) (a : IoLocal) (v : Byte) (s : State) : (ioWrite layout a v s).events = s.events ++ [.ioWrite layout a v] := rfl

/-! ### afterReport -/

@[simp] theorem afterReport_portDdr (l : LinAddr) (pc : CpuPc) (w : Bool) (s : State) : (afterReport l pc w s).portDdr = s.portDdr := rfl
@[simp] theorem afterReport_portData (l : LinAddr) (pc : CpuPc) (w : Bool) (s : State) : (afterReport l pc w s).portData = s.portData := rfl
@[simp] theorem afterReport_romvis (l : LinAddr) (pc : CpuPc) (w : Bool) (s : State) : (afterReport l pc w s).romvis = s.romvis := rfl
@[simp] theorem afterReport_priv (l : LinAddr) (pc : CpuPc) (w : Bool) (s : State) : (afterReport l pc w s).priv = s.priv := rfl
@[simp] theorem afterReport_ioLayout (l : LinAddr) (pc : CpuPc) (w : Bool) (s : State) : (afterReport l pc w s).ioLayout = s.ioLayout := rfl
@[simp] theorem afterReport_romWp (l : LinAddr) (pc : CpuPc) (w : Bool) (s : State) : (afterReport l pc w s).romWp = s.romWp := rfl
@[simp] theorem afterReport_map (l : LinAddr) (pc : CpuPc) (w : Bool) (s : State) : (afterReport l pc w s).map = s.map := rfl
@[simp] theorem afterReport_irqInhibit (l : LinAddr) (pc : CpuPc) (w : Bool) (s : State) : (afterReport l pc w s).irqInhibit = s.irqInhibit := rfl
@[simp] theorem afterReport_pslots (l : LinAddr) (pc : CpuPc) (w : Bool) (s : State) : (afterReport l pc w s).pslots = s.pslots := rfl
@[simp] theorem afterReport_sslots (l : LinAddr) (pc : CpuPc) (w : Bool) (s : State) : (afterReport l pc w s).sslots = s.sslots := rfl
@[simp] theorem afterReport_mem (l : LinAddr) (pc : CpuPc) (w : Bool) (s : State) : (afterReport l pc w s).mem = s.mem := rfl
@[simp] theorem afterReport_unmappedMode (l : LinAddr) (pc : CpuPc) (w : Bool) (s : State) : (afterReport l pc w s).unmappedMode = s.unmappedMode := rfl
@[simp] theorem afterReport_run (l : LinAddr) (pc : CpuPc) (w : Bool) (s : State) : (afterReport l pc w s).run = s.run := rfl
@[simp] theorem afterReport_inbox (l : LinAddr) (pc : CpuPc) (w : Bool) (s : State) : (afterReport l pc w s).inbox = s.inbox := rfl
@[simp] theorem afterReport_ioAnswers (l : LinAddr) (pc : CpuPc) (w : Bool) (s : State) : (afterReport l pc w s).ioAnswers = s.ioAnswers := rfl
@[simp] theorem afterReport_choices (l : LinAddr) (pc : CpuPc) (w : Bool) (s : State) : (afterReport l pc w s).choices = s.choices.tail := rfl
@[simp] theorem afterReport_rsp (l : LinAddr) (pc : CpuPc) (w : Bool) (s : State) : (afterReport l pc w s).rsp = s.rsp := rfl
@[simp] theorem afterReport_events (l : LinAddr) (pc : CpuPc) (w : Bool) (s : State) : (afterReport l pc w s).events = s.events ++ [.unmappedReport l pc w (promptAnswer l pc w s)] := rfl

/-! ### respond -/

@[simp] theorem respond_portDdr (st : Status) (v : Byte) (s : State) : (respond st v s).portDdr = s.portDdr := rfl
@[simp] theorem respond_portData (st : Status) (v : Byte) (s : State) : (respond st v s).portData = s.portData := rfl
@[simp] theorem respond_romvis (st : Status) (v : Byte) (s : State) : (respond st v s).romvis = s.romvis := rfl
@[simp] theorem respond_priv (st : Status) (v : Byte) (s : State) : (respond st v s).priv = s.priv := rfl
@[simp] theorem respond_ioLayout (st : Status) (v : Byte) (s : State) : (respond st v s).ioLayout = s.ioLayout := rfl
@[simp] theorem respond_romWp (st : Status) (v : Byte) (s : State) : (respond st v s).romWp = s.romWp := rfl
@[simp] theorem respond_map (st : Status) (v : Byte) (s : State) : (respond st v s).map = s.map := rfl
@[simp] theorem respond_irqInhibit (st : Status) (v : Byte) (s : State) : (respond st v s).irqInhibit = s.irqInhibit := rfl
@[simp] theorem respond_pslots (st : Status) (v : Byte) (s : State) : (respond st v s).pslots = s.pslots := rfl
@[simp] theorem respond_sslots (st : Status) (v : Byte) (s : State) : (respond st v s).sslots = s.sslots := rfl
@[simp] theorem respond_mem (st : Status) (v : Byte) (s : State) : (respond st v s).mem = s.mem := rfl
@[simp] theorem respond_unmappedMode (st : Status) (v : Byte) (s : State) : (respond st v s).unmappedMode = s.unmappedMode := rfl
@[simp] theorem respond_run (st : Status) (v : Byte) (s : State) : (respond st v s).run = s.run := rfl
@[simp] theorem respond_inbox (st : Status) (v : Byte) (s : State) : (respond st v s).inbox = s.inbox := rfl
@[simp] theorem respond_ioAnswers (st : Status) (v : Byte) (s : State) : (respond st v s).ioAnswers = s.ioAnswers := rfl
@[simp] theorem respond_choices (st : Status) (v : Byte) (s : State) : (respond st v s).choices = s.choices := rfl
@[simp] theorem respond_rsp (st : Status) (v : Byte) (s : State) : (respond st v s).rsp = some (responseWord st v) := rfl
@[simp] theorem respond_events (st : Status) (v : Byte) (s : State) : (respond st v s).events = s.events ++ [.response (responseWord st v)] := rfl

/-! ### halt -/

@[simp] theorem halt_portDdr (reason : HaltReason) (addr : WideAddr) (pc : CpuPc) (s : State) : (halt reason addr pc s).portDdr = s.portDdr := rfl
@[simp] theorem halt_portData (reason : HaltReason) (addr : WideAddr) (pc : CpuPc) (s : State) : (halt reason addr pc s).portData = s.portData := rfl
@[simp] theorem halt_romvis (reason : HaltReason) (addr : WideAddr) (pc : CpuPc) (s : State) : (halt reason addr pc s).romvis = s.romvis := rfl
@[simp] theorem halt_priv (reason : HaltReason) (addr : WideAddr) (pc : CpuPc) (s : State) : (halt reason addr pc s).priv = s.priv := rfl
@[simp] theorem halt_ioLayout (reason : HaltReason) (addr : WideAddr) (pc : CpuPc) (s : State) : (halt reason addr pc s).ioLayout = s.ioLayout := rfl
@[simp] theorem halt_romWp (reason : HaltReason) (addr : WideAddr) (pc : CpuPc) (s : State) : (halt reason addr pc s).romWp = s.romWp := rfl
@[simp] theorem halt_map (reason : HaltReason) (addr : WideAddr) (pc : CpuPc) (s : State) : (halt reason addr pc s).map = s.map := rfl
@[simp] theorem halt_irqInhibit (reason : HaltReason) (addr : WideAddr) (pc : CpuPc) (s : State) : (halt reason addr pc s).irqInhibit = s.irqInhibit := rfl
@[simp] theorem halt_pslots (reason : HaltReason) (addr : WideAddr) (pc : CpuPc) (s : State) : (halt reason addr pc s).pslots = s.pslots := rfl
@[simp] theorem halt_sslots (reason : HaltReason) (addr : WideAddr) (pc : CpuPc) (s : State) : (halt reason addr pc s).sslots = s.sslots := rfl
@[simp] theorem halt_mem (reason : HaltReason) (addr : WideAddr) (pc : CpuPc) (s : State) : (halt reason addr pc s).mem = s.mem := rfl
@[simp] theorem halt_unmappedMode (reason : HaltReason) (addr : WideAddr) (pc : CpuPc) (s : State) : (halt reason addr pc s).unmappedMode = s.unmappedMode := rfl
@[simp] theorem halt_run (reason : HaltReason) (addr : WideAddr) (pc : CpuPc) (s : State) : (halt reason addr pc s).run = .halted reason addr pc := rfl
@[simp] theorem halt_inbox (reason : HaltReason) (addr : WideAddr) (pc : CpuPc) (s : State) : (halt reason addr pc s).inbox = s.inbox := rfl
@[simp] theorem halt_ioAnswers (reason : HaltReason) (addr : WideAddr) (pc : CpuPc) (s : State) : (halt reason addr pc s).ioAnswers = s.ioAnswers := rfl
@[simp] theorem halt_choices (reason : HaltReason) (addr : WideAddr) (pc : CpuPc) (s : State) : (halt reason addr pc s).choices = s.choices := rfl
@[simp] theorem halt_rsp (reason : HaltReason) (addr : WideAddr) (pc : CpuPc) (s : State) : (halt reason addr pc s).rsp = none := rfl
@[simp] theorem halt_events (reason : HaltReason) (addr : WideAddr) (pc : CpuPc) (s : State) : (halt reason addr pc s).events = s.events ++ [.halt reason addr pc] := rfl

/-! ### putPort -/

@[simp] theorem putPort_ddr_portDdr (v : Byte) (s : State) : (putPort .ddr v s).portDdr = v := rfl
@[simp] theorem putPort_ddr_portData (v : Byte) (s : State) : (putPort .ddr v s).portData = s.portData := rfl
@[simp] theorem putPort_data_portDdr (v : Byte) (s : State) : (putPort .data v s).portDdr = s.portDdr := rfl
@[simp] theorem putPort_data_portData (v : Byte) (s : State) : (putPort .data v s).portData = v := rfl
@[simp] theorem putPort_romvis (sel : PortReg) (v : Byte) (s : State) : (putPort sel v s).romvis = s.romvis := by cases sel <;> rfl
@[simp] theorem putPort_priv (sel : PortReg) (v : Byte) (s : State) : (putPort sel v s).priv = s.priv := by cases sel <;> rfl
@[simp] theorem putPort_ioLayout (sel : PortReg) (v : Byte) (s : State) : (putPort sel v s).ioLayout = s.ioLayout := by cases sel <;> rfl
@[simp] theorem putPort_romWp (sel : PortReg) (v : Byte) (s : State) : (putPort sel v s).romWp = s.romWp := by cases sel <;> rfl
@[simp] theorem putPort_map (sel : PortReg) (v : Byte) (s : State) : (putPort sel v s).map = s.map := by cases sel <;> rfl
@[simp] theorem putPort_irqInhibit (sel : PortReg) (v : Byte) (s : State) : (putPort sel v s).irqInhibit = s.irqInhibit := by cases sel <;> rfl
@[simp] theorem putPort_pslots (sel : PortReg) (v : Byte) (s : State) : (putPort sel v s).pslots = s.pslots := by cases sel <;> rfl
@[simp] theorem putPort_sslots (sel : PortReg) (v : Byte) (s : State) : (putPort sel v s).sslots = s.sslots := by cases sel <;> rfl
@[simp] theorem putPort_mem (sel : PortReg) (v : Byte) (s : State) : (putPort sel v s).mem = s.mem := by cases sel <;> rfl
@[simp] theorem putPort_unmappedMode (sel : PortReg) (v : Byte) (s : State) : (putPort sel v s).unmappedMode = s.unmappedMode := by cases sel <;> rfl
@[simp] theorem putPort_run (sel : PortReg) (v : Byte) (s : State) : (putPort sel v s).run = s.run := by cases sel <;> rfl
@[simp] theorem putPort_inbox (sel : PortReg) (v : Byte) (s : State) : (putPort sel v s).inbox = s.inbox := by cases sel <;> rfl
@[simp] theorem putPort_ioAnswers (sel : PortReg) (v : Byte) (s : State) : (putPort sel v s).ioAnswers = s.ioAnswers := by cases sel <;> rfl
@[simp] theorem putPort_choices (sel : PortReg) (v : Byte) (s : State) : (putPort sel v s).choices = s.choices := by cases sel <;> rfl
@[simp] theorem putPort_rsp (sel : PortReg) (v : Byte) (s : State) : (putPort sel v s).rsp = s.rsp := by cases sel <;> rfl
@[simp] theorem putPort_events (sel : PortReg) (v : Byte) (s : State) : (putPort sel v s).events = s.events := by cases sel <;> rfl

/-! ### bankUpdate -/

@[simp] theorem bankUpdate_portDdr (P : Params) (old : Zone → BankEntry) (s : State) : (bankUpdate P old s).portDdr = s.portDdr := rfl
@[simp] theorem bankUpdate_portData (P : Params) (old : Zone → BankEntry) (s : State) : (bankUpdate P old s).portData = s.portData := rfl
@[simp] theorem bankUpdate_romvis (P : Params) (old : Zone → BankEntry) (s : State) : (bankUpdate P old s).romvis = s.romvis := rfl
@[simp] theorem bankUpdate_priv (P : Params) (old : Zone → BankEntry) (s : State) : (bankUpdate P old s).priv = s.priv := rfl
@[simp] theorem bankUpdate_ioLayout (P : Params) (old : Zone → BankEntry) (s : State) : (bankUpdate P old s).ioLayout = s.ioLayout := rfl
@[simp] theorem bankUpdate_romWp (P : Params) (old : Zone → BankEntry) (s : State) : (bankUpdate P old s).romWp = s.romWp := rfl
@[simp] theorem bankUpdate_map (P : Params) (old : Zone → BankEntry) (s : State) : (bankUpdate P old s).map = s.map := rfl
@[simp] theorem bankUpdate_irqInhibit (P : Params) (old : Zone → BankEntry) (s : State) : (bankUpdate P old s).irqInhibit = s.irqInhibit := rfl
@[simp] theorem bankUpdate_sslots (P : Params) (old : Zone → BankEntry) (s : State) : (bankUpdate P old s).sslots = s.sslots := rfl
@[simp] theorem bankUpdate_mem (P : Params) (old : Zone → BankEntry) (s : State) : (bankUpdate P old s).mem = s.mem := rfl
@[simp] theorem bankUpdate_unmappedMode (P : Params) (old : Zone → BankEntry) (s : State) : (bankUpdate P old s).unmappedMode = s.unmappedMode := rfl
@[simp] theorem bankUpdate_run (P : Params) (old : Zone → BankEntry) (s : State) : (bankUpdate P old s).run = s.run := rfl
@[simp] theorem bankUpdate_inbox (P : Params) (old : Zone → BankEntry) (s : State) : (bankUpdate P old s).inbox = s.inbox := rfl
@[simp] theorem bankUpdate_ioAnswers (P : Params) (old : Zone → BankEntry) (s : State) : (bankUpdate P old s).ioAnswers = s.ioAnswers := rfl
@[simp] theorem bankUpdate_choices (P : Params) (old : Zone → BankEntry) (s : State) : (bankUpdate P old s).choices = s.choices := rfl
@[simp] theorem bankUpdate_rsp (P : Params) (old : Zone → BankEntry) (s : State) : (bankUpdate P old s).rsp = s.rsp := rfl
@[simp] theorem bankUpdate_events (P : Params) (old : Zone → BankEntry) (s : State) : (bankUpdate P old s).events = s.events := rfl

/-! ### portStore -/

@[simp] theorem portStore_portDdr (P : Params) (sel : PortReg) (v : Byte) (s : State) : (portStore P sel v s).portDdr = (putPort sel v s).portDdr := by cases sel <;> rfl
@[simp] theorem portStore_portData (P : Params) (sel : PortReg) (v : Byte) (s : State) : (portStore P sel v s).portData = (putPort sel v s).portData := by cases sel <;> rfl
@[simp] theorem portStore_romvis (P : Params) (sel : PortReg) (v : Byte) (s : State) : (portStore P sel v s).romvis = s.romvis := by cases sel <;> rfl
@[simp] theorem portStore_priv (P : Params) (sel : PortReg) (v : Byte) (s : State) : (portStore P sel v s).priv = s.priv := by cases sel <;> rfl
@[simp] theorem portStore_ioLayout (P : Params) (sel : PortReg) (v : Byte) (s : State) : (portStore P sel v s).ioLayout = s.ioLayout := by cases sel <;> rfl
@[simp] theorem portStore_romWp (P : Params) (sel : PortReg) (v : Byte) (s : State) : (portStore P sel v s).romWp = s.romWp := by cases sel <;> rfl
@[simp] theorem portStore_map (P : Params) (sel : PortReg) (v : Byte) (s : State) : (portStore P sel v s).map = s.map := by cases sel <;> rfl
@[simp] theorem portStore_irqInhibit (P : Params) (sel : PortReg) (v : Byte) (s : State) : (portStore P sel v s).irqInhibit = s.irqInhibit := by cases sel <;> rfl
@[simp] theorem portStore_sslots (P : Params) (sel : PortReg) (v : Byte) (s : State) : (portStore P sel v s).sslots = s.sslots := by cases sel <;> rfl
@[simp] theorem portStore_mem (P : Params) (sel : PortReg) (v : Byte) (s : State) : (portStore P sel v s).mem = s.mem := by cases sel <;> rfl
@[simp] theorem portStore_unmappedMode (P : Params) (sel : PortReg) (v : Byte) (s : State) : (portStore P sel v s).unmappedMode = s.unmappedMode := by cases sel <;> rfl
@[simp] theorem portStore_run (P : Params) (sel : PortReg) (v : Byte) (s : State) : (portStore P sel v s).run = s.run := by cases sel <;> rfl
@[simp] theorem portStore_inbox (P : Params) (sel : PortReg) (v : Byte) (s : State) : (portStore P sel v s).inbox = s.inbox := by cases sel <;> rfl
@[simp] theorem portStore_ioAnswers (P : Params) (sel : PortReg) (v : Byte) (s : State) : (portStore P sel v s).ioAnswers = s.ioAnswers := by cases sel <;> rfl
@[simp] theorem portStore_choices (P : Params) (sel : PortReg) (v : Byte) (s : State) : (portStore P sel v s).choices = s.choices := by cases sel <;> rfl
@[simp] theorem portStore_rsp (P : Params) (sel : PortReg) (v : Byte) (s : State) : (portStore P sel v s).rsp = s.rsp := by cases sel <;> rfl
@[simp] theorem portStore_events (P : Params) (sel : PortReg) (v : Byte) (s : State) : (portStore P sel v s).events = s.events := by cases sel <;> rfl

/-! ### privInvalidate -/

@[simp] theorem privInvalidate_portDdr (p : Bool) (s : State) : (privInvalidate p s).portDdr = s.portDdr := by unfold privInvalidate; split <;> rfl
@[simp] theorem privInvalidate_portData (p : Bool) (s : State) : (privInvalidate p s).portData = s.portData := by unfold privInvalidate; split <;> rfl
@[simp] theorem privInvalidate_romvis (p : Bool) (s : State) : (privInvalidate p s).romvis = s.romvis := by unfold privInvalidate; split <;> rfl
@[simp] theorem privInvalidate_priv (p : Bool) (s : State) : (privInvalidate p s).priv = s.priv := by unfold privInvalidate; split <;> rfl
@[simp] theorem privInvalidate_ioLayout (p : Bool) (s : State) : (privInvalidate p s).ioLayout = s.ioLayout := by unfold privInvalidate; split <;> rfl
@[simp] theorem privInvalidate_romWp (p : Bool) (s : State) : (privInvalidate p s).romWp = s.romWp := by unfold privInvalidate; split <;> rfl
@[simp] theorem privInvalidate_map (p : Bool) (s : State) : (privInvalidate p s).map = s.map := by unfold privInvalidate; split <;> rfl
@[simp] theorem privInvalidate_irqInhibit (p : Bool) (s : State) : (privInvalidate p s).irqInhibit = s.irqInhibit := by unfold privInvalidate; split <;> rfl
@[simp] theorem privInvalidate_mem (p : Bool) (s : State) : (privInvalidate p s).mem = s.mem := by unfold privInvalidate; split <;> rfl
@[simp] theorem privInvalidate_unmappedMode (p : Bool) (s : State) : (privInvalidate p s).unmappedMode = s.unmappedMode := by unfold privInvalidate; split <;> rfl
@[simp] theorem privInvalidate_run (p : Bool) (s : State) : (privInvalidate p s).run = s.run := by unfold privInvalidate; split <;> rfl
@[simp] theorem privInvalidate_inbox (p : Bool) (s : State) : (privInvalidate p s).inbox = s.inbox := by unfold privInvalidate; split <;> rfl
@[simp] theorem privInvalidate_ioAnswers (p : Bool) (s : State) : (privInvalidate p s).ioAnswers = s.ioAnswers := by unfold privInvalidate; split <;> rfl
@[simp] theorem privInvalidate_choices (p : Bool) (s : State) : (privInvalidate p s).choices = s.choices := by unfold privInvalidate; split <;> rfl
@[simp] theorem privInvalidate_rsp (p : Bool) (s : State) : (privInvalidate p s).rsp = s.rsp := by unfold privInvalidate; split <;> rfl
@[simp] theorem privInvalidate_events (p : Bool) (s : State) : (privInvalidate p s).events = s.events := by unfold privInvalidate; split <;> rfl

/-! ### romwpInvalidate -/

@[simp] theorem romwpInvalidate_portDdr (wp : Bool) (s : State) : (romwpInvalidate wp s).portDdr = s.portDdr := by unfold romwpInvalidate; split <;> rfl
@[simp] theorem romwpInvalidate_portData (wp : Bool) (s : State) : (romwpInvalidate wp s).portData = s.portData := by unfold romwpInvalidate; split <;> rfl
@[simp] theorem romwpInvalidate_romvis (wp : Bool) (s : State) : (romwpInvalidate wp s).romvis = s.romvis := by unfold romwpInvalidate; split <;> rfl
@[simp] theorem romwpInvalidate_priv (wp : Bool) (s : State) : (romwpInvalidate wp s).priv = s.priv := by unfold romwpInvalidate; split <;> rfl
@[simp] theorem romwpInvalidate_ioLayout (wp : Bool) (s : State) : (romwpInvalidate wp s).ioLayout = s.ioLayout := by unfold romwpInvalidate; split <;> rfl
@[simp] theorem romwpInvalidate_romWp (wp : Bool) (s : State) : (romwpInvalidate wp s).romWp = s.romWp := by unfold romwpInvalidate; split <;> rfl
@[simp] theorem romwpInvalidate_map (wp : Bool) (s : State) : (romwpInvalidate wp s).map = s.map := by unfold romwpInvalidate; split <;> rfl
@[simp] theorem romwpInvalidate_irqInhibit (wp : Bool) (s : State) : (romwpInvalidate wp s).irqInhibit = s.irqInhibit := by unfold romwpInvalidate; split <;> rfl
@[simp] theorem romwpInvalidate_mem (wp : Bool) (s : State) : (romwpInvalidate wp s).mem = s.mem := by unfold romwpInvalidate; split <;> rfl
@[simp] theorem romwpInvalidate_unmappedMode (wp : Bool) (s : State) : (romwpInvalidate wp s).unmappedMode = s.unmappedMode := by unfold romwpInvalidate; split <;> rfl
@[simp] theorem romwpInvalidate_run (wp : Bool) (s : State) : (romwpInvalidate wp s).run = s.run := by unfold romwpInvalidate; split <;> rfl
@[simp] theorem romwpInvalidate_inbox (wp : Bool) (s : State) : (romwpInvalidate wp s).inbox = s.inbox := by unfold romwpInvalidate; split <;> rfl
@[simp] theorem romwpInvalidate_ioAnswers (wp : Bool) (s : State) : (romwpInvalidate wp s).ioAnswers = s.ioAnswers := by unfold romwpInvalidate; split <;> rfl
@[simp] theorem romwpInvalidate_choices (wp : Bool) (s : State) : (romwpInvalidate wp s).choices = s.choices := by unfold romwpInvalidate; split <;> rfl
@[simp] theorem romwpInvalidate_rsp (wp : Bool) (s : State) : (romwpInvalidate wp s).rsp = s.rsp := by unfold romwpInvalidate; split <;> rfl
@[simp] theorem romwpInvalidate_events (wp : Bool) (s : State) : (romwpInvalidate wp s).events = s.events := by unfold romwpInvalidate; split <;> rfl

/-! ### fillPageSlot -/

@[simp] theorem fillPageSlot_portDdr (P : Params) (p : PageNo) (s : State) : (fillPageSlot P p s).portDdr = s.portDdr := by unfold fillPageSlot; split <;> rfl
@[simp] theorem fillPageSlot_portData (P : Params) (p : PageNo) (s : State) : (fillPageSlot P p s).portData = s.portData := by unfold fillPageSlot; split <;> rfl
@[simp] theorem fillPageSlot_romvis (P : Params) (p : PageNo) (s : State) : (fillPageSlot P p s).romvis = s.romvis := by unfold fillPageSlot; split <;> rfl
@[simp] theorem fillPageSlot_priv (P : Params) (p : PageNo) (s : State) : (fillPageSlot P p s).priv = s.priv := by unfold fillPageSlot; split <;> rfl
@[simp] theorem fillPageSlot_ioLayout (P : Params) (p : PageNo) (s : State) : (fillPageSlot P p s).ioLayout = s.ioLayout := by unfold fillPageSlot; split <;> rfl
@[simp] theorem fillPageSlot_romWp (P : Params) (p : PageNo) (s : State) : (fillPageSlot P p s).romWp = s.romWp := by unfold fillPageSlot; split <;> rfl
@[simp] theorem fillPageSlot_map (P : Params) (p : PageNo) (s : State) : (fillPageSlot P p s).map = s.map := by unfold fillPageSlot; split <;> rfl
@[simp] theorem fillPageSlot_irqInhibit (P : Params) (p : PageNo) (s : State) : (fillPageSlot P p s).irqInhibit = s.irqInhibit := by unfold fillPageSlot; split <;> rfl
@[simp] theorem fillPageSlot_sslots (P : Params) (p : PageNo) (s : State) : (fillPageSlot P p s).sslots = s.sslots := by unfold fillPageSlot; split <;> rfl
@[simp] theorem fillPageSlot_mem (P : Params) (p : PageNo) (s : State) : (fillPageSlot P p s).mem = s.mem := by unfold fillPageSlot; split <;> rfl
@[simp] theorem fillPageSlot_unmappedMode (P : Params) (p : PageNo) (s : State) : (fillPageSlot P p s).unmappedMode = s.unmappedMode := by unfold fillPageSlot; split <;> rfl
@[simp] theorem fillPageSlot_run (P : Params) (p : PageNo) (s : State) : (fillPageSlot P p s).run = s.run := by unfold fillPageSlot; split <;> rfl
@[simp] theorem fillPageSlot_inbox (P : Params) (p : PageNo) (s : State) : (fillPageSlot P p s).inbox = s.inbox := by unfold fillPageSlot; split <;> rfl
@[simp] theorem fillPageSlot_ioAnswers (P : Params) (p : PageNo) (s : State) : (fillPageSlot P p s).ioAnswers = s.ioAnswers := by unfold fillPageSlot; split <;> rfl
@[simp] theorem fillPageSlot_choices (P : Params) (p : PageNo) (s : State) : (fillPageSlot P p s).choices = s.choices := by unfold fillPageSlot; split <;> rfl
@[simp] theorem fillPageSlot_rsp (P : Params) (p : PageNo) (s : State) : (fillPageSlot P p s).rsp = s.rsp := by unfold fillPageSlot; split <;> rfl
@[simp] theorem fillPageSlot_events (P : Params) (p : PageNo) (s : State) : (fillPageSlot P p s).events = s.events := by unfold fillPageSlot; split <;> rfl

/-! ### fillLinSlot -/

@[simp] theorem fillLinSlot_portDdr (P : Params) (k : SpecialSlot) (b : LinAddr) (s : State) : (fillLinSlot P k b s).portDdr = s.portDdr := by unfold fillLinSlot; split <;> rfl
@[simp] theorem fillLinSlot_portData (P : Params) (k : SpecialSlot) (b : LinAddr) (s : State) : (fillLinSlot P k b s).portData = s.portData := by unfold fillLinSlot; split <;> rfl
@[simp] theorem fillLinSlot_romvis (P : Params) (k : SpecialSlot) (b : LinAddr) (s : State) : (fillLinSlot P k b s).romvis = s.romvis := by unfold fillLinSlot; split <;> rfl
@[simp] theorem fillLinSlot_priv (P : Params) (k : SpecialSlot) (b : LinAddr) (s : State) : (fillLinSlot P k b s).priv = s.priv := by unfold fillLinSlot; split <;> rfl
@[simp] theorem fillLinSlot_ioLayout (P : Params) (k : SpecialSlot) (b : LinAddr) (s : State) : (fillLinSlot P k b s).ioLayout = s.ioLayout := by unfold fillLinSlot; split <;> rfl
@[simp] theorem fillLinSlot_romWp (P : Params) (k : SpecialSlot) (b : LinAddr) (s : State) : (fillLinSlot P k b s).romWp = s.romWp := by unfold fillLinSlot; split <;> rfl
@[simp] theorem fillLinSlot_map (P : Params) (k : SpecialSlot) (b : LinAddr) (s : State) : (fillLinSlot P k b s).map = s.map := by unfold fillLinSlot; split <;> rfl
@[simp] theorem fillLinSlot_irqInhibit (P : Params) (k : SpecialSlot) (b : LinAddr) (s : State) : (fillLinSlot P k b s).irqInhibit = s.irqInhibit := by unfold fillLinSlot; split <;> rfl
@[simp] theorem fillLinSlot_pslots (P : Params) (k : SpecialSlot) (b : LinAddr) (s : State) : (fillLinSlot P k b s).pslots = s.pslots := by unfold fillLinSlot; split <;> rfl
@[simp] theorem fillLinSlot_mem (P : Params) (k : SpecialSlot) (b : LinAddr) (s : State) : (fillLinSlot P k b s).mem = s.mem := by unfold fillLinSlot; split <;> rfl
@[simp] theorem fillLinSlot_unmappedMode (P : Params) (k : SpecialSlot) (b : LinAddr) (s : State) : (fillLinSlot P k b s).unmappedMode = s.unmappedMode := by unfold fillLinSlot; split <;> rfl
@[simp] theorem fillLinSlot_run (P : Params) (k : SpecialSlot) (b : LinAddr) (s : State) : (fillLinSlot P k b s).run = s.run := by unfold fillLinSlot; split <;> rfl
@[simp] theorem fillLinSlot_inbox (P : Params) (k : SpecialSlot) (b : LinAddr) (s : State) : (fillLinSlot P k b s).inbox = s.inbox := by unfold fillLinSlot; split <;> rfl
@[simp] theorem fillLinSlot_ioAnswers (P : Params) (k : SpecialSlot) (b : LinAddr) (s : State) : (fillLinSlot P k b s).ioAnswers = s.ioAnswers := by unfold fillLinSlot; split <;> rfl
@[simp] theorem fillLinSlot_choices (P : Params) (k : SpecialSlot) (b : LinAddr) (s : State) : (fillLinSlot P k b s).choices = s.choices := by unfold fillLinSlot; split <;> rfl
@[simp] theorem fillLinSlot_rsp (P : Params) (k : SpecialSlot) (b : LinAddr) (s : State) : (fillLinSlot P k b s).rsp = s.rsp := by unfold fillLinSlot; split <;> rfl
@[simp] theorem fillLinSlot_events (P : Params) (k : SpecialSlot) (b : LinAddr) (s : State) : (fillLinSlot P k b s).events = s.events := by unfold fillLinSlot; split <;> rfl

/-! ### takeRequest -/

@[simp] theorem takeRequest_portDdr (w : Request) (rest : List Input) (s : State) : (takeRequest w rest s).portDdr = s.portDdr := rfl
@[simp] theorem takeRequest_portData (w : Request) (rest : List Input) (s : State) : (takeRequest w rest s).portData = s.portData := rfl
@[simp] theorem takeRequest_romvis (w : Request) (rest : List Input) (s : State) : (takeRequest w rest s).romvis = s.romvis := rfl
@[simp] theorem takeRequest_priv (w : Request) (rest : List Input) (s : State) : (takeRequest w rest s).priv = s.priv := rfl
@[simp] theorem takeRequest_ioLayout (w : Request) (rest : List Input) (s : State) : (takeRequest w rest s).ioLayout = s.ioLayout := rfl
@[simp] theorem takeRequest_romWp (w : Request) (rest : List Input) (s : State) : (takeRequest w rest s).romWp = s.romWp := rfl
@[simp] theorem takeRequest_map (w : Request) (rest : List Input) (s : State) : (takeRequest w rest s).map = s.map := rfl
@[simp] theorem takeRequest_irqInhibit (w : Request) (rest : List Input) (s : State) : (takeRequest w rest s).irqInhibit = s.irqInhibit := rfl
@[simp] theorem takeRequest_pslots (w : Request) (rest : List Input) (s : State) : (takeRequest w rest s).pslots = s.pslots := rfl
@[simp] theorem takeRequest_sslots (w : Request) (rest : List Input) (s : State) : (takeRequest w rest s).sslots = s.sslots := rfl
@[simp] theorem takeRequest_mem (w : Request) (rest : List Input) (s : State) : (takeRequest w rest s).mem = s.mem := rfl
@[simp] theorem takeRequest_unmappedMode (w : Request) (rest : List Input) (s : State) : (takeRequest w rest s).unmappedMode = s.unmappedMode := rfl
@[simp] theorem takeRequest_run (w : Request) (rest : List Input) (s : State) : (takeRequest w rest s).run = s.run := rfl
@[simp] theorem takeRequest_inbox (w : Request) (rest : List Input) (s : State) : (takeRequest w rest s).inbox = rest := rfl
@[simp] theorem takeRequest_ioAnswers (w : Request) (rest : List Input) (s : State) : (takeRequest w rest s).ioAnswers = s.ioAnswers := rfl
@[simp] theorem takeRequest_choices (w : Request) (rest : List Input) (s : State) : (takeRequest w rest s).choices = s.choices := rfl
@[simp] theorem takeRequest_rsp (w : Request) (rest : List Input) (s : State) : (takeRequest w rest s).rsp = s.rsp := rfl
@[simp] theorem takeRequest_events (w : Request) (rest : List Input) (s : State) : (takeRequest w rest s).events = s.events ++ [.request w] := rfl

/-! ### applyReset -/

@[simp] theorem applyReset_portDdr (P : Params) (s : State) : (applyReset P s).portDdr = 0x00#8 := rfl
@[simp] theorem applyReset_portData (P : Params) (s : State) : (applyReset P s).portData = 0x00#8 := rfl
@[simp] theorem applyReset_romvis (P : Params) (s : State) : (applyReset P s).romvis = 0#4 := rfl
@[simp] theorem applyReset_priv (P : Params) (s : State) : (applyReset P s).priv = false := rfl
@[simp] theorem applyReset_ioLayout (P : Params) (s : State) : (applyReset P s).ioLayout = 0#2 := rfl
@[simp] theorem applyReset_romWp (P : Params) (s : State) : (applyReset P s).romWp = false := rfl
@[simp] theorem applyReset_map (P : Params) (s : State) : (applyReset P s).map = { mbLow := 0x00#8, offLow := 0#20, mbHigh := 0x00#8, offHigh := 0#20, mask := 0x00#8 } := rfl
@[simp] theorem applyReset_irqInhibit (P : Params) (s : State) : (applyReset P s).irqInhibit = false := rfl
@[simp] theorem applyReset_pslots (P : Params) (s : State) : (applyReset P s).pslots = [] := rfl
@[simp] theorem applyReset_sslots (P : Params) (s : State) : (applyReset P s).sslots = SpecialSlots.unresolved := rfl
@[simp] theorem applyReset_mem (P : Params) (s : State) : (applyReset P s).mem = s.mem := rfl
@[simp] theorem applyReset_unmappedMode (P : Params) (s : State) : (applyReset P s).unmappedMode = .ask := rfl
@[simp] theorem applyReset_run (P : Params) (s : State) : (applyReset P s).run = runAfterReset P := rfl
@[simp] theorem applyReset_inbox (P : Params) (s : State) : (applyReset P s).inbox = s.inbox := rfl
@[simp] theorem applyReset_ioAnswers (P : Params) (s : State) : (applyReset P s).ioAnswers = s.ioAnswers := rfl
@[simp] theorem applyReset_choices (P : Params) (s : State) : (applyReset P s).choices = s.choices := rfl
@[simp] theorem applyReset_rsp (P : Params) (s : State) : (applyReset P s).rsp = none := rfl
@[simp] theorem applyReset_events (P : Params) (s : State) : (applyReset P s).events = s.events := rfl

/-! ### dropCache -/

@[simp] theorem dropCache_portDdr (s : State) : (dropCache s).portDdr = s.portDdr := rfl
@[simp] theorem dropCache_portData (s : State) : (dropCache s).portData = s.portData := rfl
@[simp] theorem dropCache_romvis (s : State) : (dropCache s).romvis = s.romvis := rfl
@[simp] theorem dropCache_priv (s : State) : (dropCache s).priv = s.priv := rfl
@[simp] theorem dropCache_ioLayout (s : State) : (dropCache s).ioLayout = s.ioLayout := rfl
@[simp] theorem dropCache_romWp (s : State) : (dropCache s).romWp = s.romWp := rfl
@[simp] theorem dropCache_map (s : State) : (dropCache s).map = s.map := rfl
@[simp] theorem dropCache_irqInhibit (s : State) : (dropCache s).irqInhibit = s.irqInhibit := rfl
@[simp] theorem dropCache_pslots (s : State) : (dropCache s).pslots = [] := rfl
@[simp] theorem dropCache_sslots (s : State) : (dropCache s).sslots = SpecialSlots.unresolved := rfl
@[simp] theorem dropCache_mem (s : State) : (dropCache s).mem = s.mem := rfl
@[simp] theorem dropCache_unmappedMode (s : State) : (dropCache s).unmappedMode = s.unmappedMode := rfl
@[simp] theorem dropCache_run (s : State) : (dropCache s).run = s.run := rfl
@[simp] theorem dropCache_inbox (s : State) : (dropCache s).inbox = s.inbox := rfl
@[simp] theorem dropCache_ioAnswers (s : State) : (dropCache s).ioAnswers = s.ioAnswers := rfl
@[simp] theorem dropCache_choices (s : State) : (dropCache s).choices = s.choices := rfl
@[simp] theorem dropCache_rsp (s : State) : (dropCache s).rsp = s.rsp := rfl
@[simp] theorem dropCache_events (s : State) : (dropCache s).events = s.events := rfl

end Sys2Proof.Machine
end

