-- ==== Sys2Proof/Laws/Ops.lean ====
section
/-! SUPPORT. One lemma per shared operation, saying once what it can do: the frame of an operation, the slots and their
invalidation, the store, the unmapped access. -/

namespace Sys2Proof.Machine

/-! ### The frame of an operation -/

theorem operate_running {f : State → State} {s : State} (h : s.run = .running) : operate f s = .next (f s) := by
  unfold operate; rw [h]

theorem operate_halted {f : State → State} {s : State} {r : HaltReason} {a : WideAddr} {pc : CpuPc}
    (h : s.run = .halted r a pc) : operate f s = .next { s with rsp := none } := by
  unfold operate; rw [h]

/-- An operation always answers a next state: its effect when the block runs, the request ignored when it is halted. -/
theorem operate_cases (f : State → State) (s : State) :
    (s.run = .running ∧ operate f s = .next (f s)) ∨ (s.run ≠ .running ∧ operate f s = .next { s with rsp := none }) := by
  unfold operate
  cases h : s.run
  · exact Or.inl ⟨rfl, rfl⟩
  · exact Or.inr ⟨nofun, rfl⟩

/-! ### The special slots -/

@[simp] theorem specialGet_put_self (k : SpecialSlot) (v : Slot) (t : SpecialSlots) :
    specialGet k (specialPut k v t) = v := by cases k <;> rfl

theorem specialGet_put_ne {j k : SpecialSlot} (h : j ≠ k) (v : Slot) (t : SpecialSlots) :
    specialGet j (specialPut k v t) = specialGet j t := by
  cases j <;> cases k <;> first | rfl | exact absurd rfl h

/-- A special slot after writing one of the five. -/
theorem specialGet_put (j k : SpecialSlot) (v : Slot) (t : SpecialSlots) :
    specialGet j (specialPut k v t) = if j = k then v else specialGet j t := by
  split
  · next h => subst h; simp
  · next h => exact specialGet_put_ne h v t

/-- Writing into a special slot what it holds changes nothing. -/
theorem specialPut_get (k : SpecialSlot) (t : SpecialSlots) : specialPut k (specialGet k t) t = t := by
  cases k <;> rfl

@[simp] theorem specialGet_unresolved (k : SpecialSlot) : specialGet k SpecialSlots.unresolved = none := by
  cases k <;> rfl

/-- Two sets of special slots with the same five values are the same. -/
theorem specialSlots_ext {t u : SpecialSlots} (h : ∀ k, specialGet k t = specialGet k u) : t = u := by
  cases t; cases u
  have h1 := h .list; have h2 := h .src; have h3 := h .tgt; have h4 := h .dbg; have h5 := h .flat
  simp only [specialGet] at h1 h2 h3 h4 h5
  subst h1 h2 h3 h4 h5; rfl

/-! ### Reading slots after an update -/

/-- A page slot depends on the listed page slots only. -/
theorem pslotAt_congr {s t : State} (h : t.pslots = s.pslots) (p : PageNo) : pslotAt p t = pslotAt p s := by
  unfold pslotAt; rw [h]

/-- A special slot depends on the special slots only. -/
theorem sslotAt_congr {s t : State} (h : t.sslots = s.sslots) (k : SpecialSlot) : sslotAt k t = sslotAt k s := by
  unfold sslotAt; rw [h]

@[simp] theorem pslotAt_setPslot_self (p : PageNo) (r : Resolved) (s : State) : pslotAt p (setPslot p r s) = some r := by
  simp [pslotAt]

theorem pslotAt_setPslot_ne {p q : PageNo} (h : q ≠ p) (r : Resolved) (s : State) :
    pslotAt q (setPslot p r s) = pslotAt q s := by
  have : q.toNat ≠ p.toNat := fun e => h (BitVec.eq_of_toNat_eq e)
  simp [pslotAt, assocGet_put_ne this]

@[simp] theorem sslotAt_setSslot_self (k : SpecialSlot) (r : Resolved) (s : State) :
    sslotAt k (setSslot k r s) = some r := by simp [sslotAt]

theorem sslotAt_setSslot_ne {j k : SpecialSlot} (h : j ≠ k) (r : Resolved) (s : State) :
    sslotAt j (setSslot k r s) = sslotAt j s := by simp [sslotAt, specialGet_put_ne h]

/-- What an invalidation leaves in a page slot (R214), for page slots in canonical form. -/
theorem pslotAt_invalidatePages {s : State} (hw : assocRising s.pslots = true) (sel : PageNo → Resolved → Bool) (p : PageNo) :
    pslotAt p (invalidatePages sel s) = (pslotAt p s).filter fun r => !sel p r := by
  unfold pslotAt
  rw [invalidatePages_pslots, assocGet_drop _ _ hw, BitVec.ofNat_toNat, BitVec.setWidth_eq]

/-- A page slot that is `Resolved` after an invalidation was so before, with a value that was not selected (R214). -/
theorem pslotAt_invalidatePages_some {s : State} (hw : assocRising s.pslots = true) {sel : PageNo → Resolved → Bool}
    {p : PageNo} {r : Resolved} (h : pslotAt p (invalidatePages sel s) = some r) :
    pslotAt p s = some r ∧ sel p r = false := by
  rw [pslotAt_invalidatePages hw, Option.filter_eq_some_iff] at h
  exact ⟨h.1, by simpa using h.2⟩

/-- What an invalidation leaves in a special slot (R214). -/
theorem sslotAt_invalidateSpecials (sel : Resolved → Bool) (k : SpecialSlot) (s : State) :
    sslotAt k (invalidateSpecials sel s) = (sslotAt k s).filter fun r => !sel r := by
  cases k <;> rfl

/-- A special slot that is `Resolved` after an invalidation was so before, with a value that was not selected (R214). -/
theorem sslotAt_invalidateSpecials_some {s : State} {sel : Resolved → Bool} {k : SpecialSlot} {r : Resolved}
    (h : sslotAt k (invalidateSpecials sel s) = some r) : sslotAt k s = some r ∧ sel r = false := by
  rw [sslotAt_invalidateSpecials, Option.filter_eq_some_iff] at h
  exact ⟨h.1, by simpa using h.2⟩

/-! ### The canonical form of the page slots -/

theorem pslots_rising_setPslot {s : State} (p : PageNo) (r : Resolved) (h : assocRising s.pslots = true) :
    assocRising (setPslot p r s).pslots = true := by
  rw [setPslot_pslots]; exact assocRising_put _ _ h

theorem pslots_rising_invalidatePages {s : State} (sel : PageNo → Resolved → Bool) (h : assocRising s.pslots = true) :
    assocRising (invalidatePages sel s).pslots = true := by
  rw [invalidatePages_pslots]; exact assocRising_drop _ h

/-- Filling a page slot keeps the canonical form. -/
theorem pagesWf_setPslot {s : State} (p : PageNo) (r : Resolved) (h : pagesWf s) : pagesWf (setPslot p r s) := by
  refine ⟨pslots_rising_setPslot p r h.1, fun e he => ?_⟩
  rw [setPslot_pslots] at he
  rcases mem_assocPut he with he | he
  · rw [he]; exact p.isLt
  · exact h.2 e he

/-- An invalidation keeps the canonical form. -/
theorem pagesWf_invalidatePages {s : State} (sel : PageNo → Resolved → Bool) (h : pagesWf s) :
    pagesWf (invalidatePages sel s) := by
  refine ⟨pslots_rising_invalidatePages sel h.1, fun e he => ?_⟩
  rw [invalidatePages_pslots] at he
  exact h.2 e (mem_assocDrop he)

/-- The canonical form of the page slots depends on them only. -/
theorem pagesWf_congr {s t : State} (ht : t.pslots = s.pslots) (h : pagesWf s) : pagesWf t := by
  unfold pagesWf; rw [ht]; exact h

theorem pagesWf_fillPageSlot {s : State} (P : Params) (p : PageNo) (h : pagesWf s) : pagesWf (fillPageSlot P p s) := by
  unfold fillPageSlot
  split
  · exact h
  · exact pagesWf_setPslot _ _ h

/-! ### The store -/

/-- The store keeps its canonical form under a write. -/
theorem memory_wf_memWrite {s : State} (P : Params) (l : LinAddr) (v : Byte) (h : Memory.wf s.mem = true) :
    Memory.wf (memWrite P l v s).mem = true := by
  rw [memWrite_mem]; exact assocRising_put _ _ h

/-- The store right after reset is in canonical form. -/
theorem memory_wf_reset : Memory.wf State.reset.mem = true := rfl

/-- A stored byte after a write, at the written address and at every other. -/
theorem storedByte_put (m : List Host.Cell) (c d : Nat) (v : Byte) :
    storedByte (assocPut c v m) d = if d = c then v else storedByte m d := by
  unfold storedByte
  split
  · next h => subst h; simp
  · next h => rw [assocGet_put_ne h]

/-- What a read sees depends on the store only. -/
theorem memRead_congr {s t : State} (P : Params) (h : t.mem = s.mem) (l : LinAddr) : memRead P l t = memRead P l s := by
  unfold memRead; rw [h]

/-! ### The unmapped access -/

/-- All an UnmappedAccess can do (R284): go on silently; report and halt; report and fall silent; report and go on. -/
theorem unmappedAccess_cases (l : LinAddr) (pc : CpuPc) (w : Bool) (v : Byte) (s : State) :
    (s.unmappedMode = .silent ∧ unmappedAccess l pc w v s = .reply .okDummy v s) ∨
    (s.unmappedMode = .ask ∧ (promptAnswer l pc w s = 0#2 ∨ promptAnswer l pc w s = 3#2) ∧
      unmappedAccess l pc w v s = .ended (halt .abort (l.setWidth 32) pc (afterReport l pc w s))) ∨
    (s.unmappedMode = .ask ∧ promptAnswer l pc w s = 2#2 ∧
      unmappedAccess l pc w v s = .reply .okDummy v { afterReport l pc w s with unmappedMode := .silent }) ∨
    (s.unmappedMode = .ask ∧ promptAnswer l pc w s = 1#2 ∧
      unmappedAccess l pc w v s = .reply .okDummy v (afterReport l pc w s)) := by
  cases hm : s.unmappedMode
  · by_cases h1 : promptAnswer l pc w s = 0#2 ∨ promptAnswer l pc w s = 3#2
    · exact Or.inr (Or.inl ⟨rfl, h1, by simp [unmappedAccess, hm, h1]⟩)
    · by_cases h2 : promptAnswer l pc w s = 2#2
      · exact Or.inr (Or.inr (Or.inl ⟨rfl, h2, by simp [unmappedAccess, hm, h2]⟩))
      · refine Or.inr (Or.inr (Or.inr ⟨rfl, ?_, by simp [unmappedAccess, hm, h1, h2]⟩))
        have h3 : ∀ c : Choice, c = 0#2 ∨ c = 1#2 ∨ c = 2#2 ∨ c = 3#2 := by decide
        rcases h3 (promptAnswer l pc w s) with h | h | h | h
        · exact absurd (Or.inl h) h1
        · exact h
        · exact absurd h h2
        · exact absurd (Or.inr h) h1
  · exact Or.inl ⟨rfl, by simp [unmappedAccess, hm]⟩

end Sys2Proof.Machine
end

