-- ==== Sys2Proof/Laws/Resolve.lean ====
section
/-! SUPPORT. What resolution depends on (R132, R217), what the slots answer when the cache is transparent (R218, R226), and
what filling a slot does. -/

namespace Sys2Proof.Machine

/-! ### What resolution depends on -/

/-- The bank view depends on the port, `romvis` and `priv` only (R164(a), R166). -/
theorem currentBank_congr {s t : State} (P : Params) (hd : t.portDdr = s.portDdr) (ha : t.portData = s.portData)
    (hr : t.romvis = s.romvis) (hp : t.priv = s.priv) : currentBank P t = currentBank P s := by
  unfold currentBank; rw [hd, ha, hr, hp]

/-- `ResolveCpuPage` depends on the map, the bank entry of the page's zone, and `rom_wp` only (R217). A page that is not
banked does not look at the bank view. -/
theorem resolveCpuPage_congr {s t : State} (P : Params) (p : PageNo)
    (hm : mapEntry t.map (pageBlock p) = mapEntry s.map (pageBlock p)) (hw : t.romWp = s.romWp)
    (hb : pageBanked p = true → currentBank P t (pageZone p) = currentBank P s (pageZone p)) :
    resolveCpuPage P t p = resolveCpuPage P s p := by
  unfold resolveCpuPage resolveBanked
  rw [hm, hw]
  split
  · rfl
  · split
    · rfl
    · split
      · next h => rw [hb h]
      · rfl

/-- `ResolveCpuPage` after a change of nothing it reads. -/
theorem resolveCpuPage_same {s t : State} (P : Params) (hm : t.map = s.map) (hw : t.romWp = s.romWp)
    (hd : t.portDdr = s.portDdr) (ha : t.portData = s.portData) (hr : t.romvis = s.romvis) (hp : t.priv = s.priv)
    (p : PageNo) : resolveCpuPage P t p = resolveCpuPage P s p :=
  resolveCpuPage_congr P p (by rw [hm]) hw fun _ => by rw [currentBank_congr P hd ha hr hp]

/-- A resolved linear page keeps the base it was asked for (R132). -/
@[simp] theorem resolveLinearPage_base (P : Params) (wp : Bool) (b : LinAddr) : (resolveLinearPage P wp b).base = b := rfl

@[simp] theorem resolveLinearPage_kind (P : Params) (wp : Bool) (b : LinAddr) :
    (resolveLinearPage P wp b).kind = kindAt P.regionTable b.toNat := rfl

@[simp] theorem resolveLinearPage_handler (P : Params) (wp : Bool) (b : LinAddr) :
    (resolveLinearPage P wp b).handler = handlerOf (kindAt P.regionTable b.toNat) wp := rfl

/-- The write protection matters to shadow ROM alone (R132). -/
theorem handlerOf_wp {k : RegionKind} (h : k ≠ .shadowRom) (a b : Bool) : handlerOf k a = handlerOf k b := by
  cases k <;> first | rfl | exact absurd rfl h

/-- A linear page of any other kind resolves alike under both settings of the write protection (R132). -/
theorem resolveLinearPage_wp {P : Params} {b : LinAddr} (h : kindAt P.regionTable b.toNat ≠ .shadowRom) (v w : Bool) :
    resolveLinearPage P v b = resolveLinearPage P w b := by
  unfold resolveLinearPage; rw [handlerOf_wp h v w]

/-- What a CPU page can resolve to (R217): the zero page, a legacy I/O page, or a linear page. -/
theorem resolveCpuPage_cases (P : Params) (s : State) (p : PageNo) :
    resolveCpuPage P s p = zeroPage ∨ resolveCpuPage P s p = legacyIoPage P p ∨
      ∃ b, resolveCpuPage P s p = resolveLinearPage P s.romWp b := by
  unfold resolveCpuPage resolveBanked
  split
  · exact Or.inr (Or.inr ⟨_, rfl⟩)
  · split
    · exact Or.inl rfl
    · split
      · split
        · exact Or.inr (Or.inr ⟨_, rfl⟩)
        · exact Or.inr (Or.inr ⟨_, rfl⟩)
        · exact Or.inr (Or.inl rfl)
      · exact Or.inr (Or.inr ⟨_, rfl⟩)

/-! ### What a transparent cache answers -/

/-- A transparent page slot answers the fresh resolution (R218, R230). -/
theorem pageSlotValue_transparent {P : Params} {s : State} (h : pagesTransparent P s) (p : PageNo) :
    pageSlotValue P p s = resolveCpuPage P s p := by
  unfold pageSlotValue
  cases hs : pslotAt p s with
  | none => rfl
  | some r => exact h p r hs

/-- The tag compare answers only for the same page (R225). -/
theorem tagMatches_some {t : Slot} {b : LinAddr} {r : Resolved} (h : tagMatches t b = some r) : t = some r ∧ r.base = b := by
  unfold tagMatches at h
  rw [Option.filter_eq_some_iff] at h
  exact ⟨h.1, by simpa using h.2⟩

/-- A transparent special slot answers the fresh resolution (R226, R230). -/
theorem linSlotValue_transparent {P : Params} {s : State} (h : specialsTransparent P s) (k : SpecialSlot) (b : LinAddr) :
    linSlotValue P k b s = resolveLinearPage P s.romWp b := by
  unfold linSlotValue
  cases hs : tagMatches (sslotAt k s) b with
  | none => rfl
  | some r =>
    obtain ⟨h1, h2⟩ := tagMatches_some hs
    have := h k r h1
    rw [h2] at this
    exact this

/-- Filling a transparent special slot leaves in it the fresh resolution, and the others alone (R216, R226). -/
theorem fillLinSlot_transparent {P : Params} {s : State} (h : specialsTransparent P s) (k : SpecialSlot) (b : LinAddr) :
    fillLinSlot P k b s = setSslot k (resolveLinearPage P s.romWp b) s := by
  unfold fillLinSlot
  split
  · next r hs =>
    obtain ⟨h1, h2⟩ := tagMatches_some hs
    have hr := h k r h1
    rw [h2] at hr
    unfold setSslot
    rw [← hr, ← h1]
    unfold sslotAt
    rw [specialPut_get]
  · rfl

/-- The page slot of an access holds the value the access used (R216, R218). -/
theorem pslotAt_fillPageSlot_self (P : Params) (p : PageNo) (s : State) :
    pslotAt p (fillPageSlot P p s) = some (pageSlotValue P p s) := by
  unfold fillPageSlot pageSlotValue
  split
  · next r h => simp [h]
  · next h => simp [h]

/-- Every other page slot is as it was (R216). -/
theorem pslotAt_fillPageSlot_ne {P : Params} {p q : PageNo} (h : q ≠ p) (s : State) :
    pslotAt q (fillPageSlot P p s) = pslotAt q s := by
  unfold fillPageSlot
  split
  · rfl
  · exact pslotAt_setPslot_ne h _ _

/-- What `BankUpdate` leaves in a page slot (R168), for page slots in canonical form. -/
theorem pslotAt_bankUpdate {s : State} (P : Params) (hw : assocRising s.pslots = true) (old : Zone → BankEntry) (p : PageNo) :
    pslotAt p (bankUpdate P old s) =
      (pslotAt p s).filter fun _ => !(pageBanked p && decide (old (pageZone p) ≠ currentBank P s (pageZone p))) :=
  pslotAt_invalidatePages hw _ p

/-- `BankUpdate` keeps the page slots canonical. -/
theorem pagesWf_bankUpdate {s : State} (P : Params) (old : Zone → BankEntry) (h : pagesWf s) : pagesWf (bankUpdate P old s) :=
  pagesWf_invalidatePages _ h

/-- A cache with nothing in it is transparent (R230), as right after reset. -/
theorem transparent_of_unresolved (P : Params) {s : State} (hp : s.pslots = []) (hs : s.sslots = SpecialSlots.unresolved) :
    transparent P s := by
  refine ⟨fun p r h => ?_, fun k r h => ?_⟩
  · rw [pslotAt, hp] at h; simp at h
  · rw [sslotAt, hs, specialGet_unresolved] at h; cases h

/-- Page slots with nothing in them are in canonical form. -/
theorem pagesWf_of_unresolved {s : State} (hp : s.pslots = []) : pagesWf s := by
  unfold pagesWf; rw [hp]; exact ⟨rfl, nofun⟩

end Sys2Proof.Machine
end

