-- ==== Sys2Proof/Laws/Handlers.lean ====
section
/-! SUPPORT. What the handlers can do, said once: `ExecRead` and `ExecWrite` by cases (R133 to R142, R245). -/

namespace Sys2Proof.Machine

/-- All a handler's reader can do (R133): answer a byte and change nothing; ask the dispatcher; or go through the
UnmappedAccess procedure. -/
theorem execRead_cases (P : Params) (r : Resolved) (o : Byte) (dbg : Bool) (pc : CpuPc) (s : State) :
    (∃ v, execRead P r o dbg pc s = .reply .ok v s) ∨
    (∃ layout a, execRead P r o dbg pc s = .reply .ok (dispatcherAnswer layout a s) (afterIoRead layout a s)) ∨
    (r.handler = .unmapped ∧ execRead P r o dbg pc s = unmappedAccess (atOffset r.base o) pc false dummyByte s) := by
  unfold execRead
  cases r.handler <;> simp only []
  · exact Or.inl ⟨_, rfl⟩
  · exact Or.inl ⟨_, rfl⟩
  · exact Or.inl ⟨_, rfl⟩
  · split
    · exact Or.inl ⟨_, rfl⟩
    · exact Or.inl ⟨_, rfl⟩
  · exact Or.inr (Or.inl ⟨_, _, rfl⟩)
  · exact Or.inr (Or.inl ⟨_, _, rfl⟩)
  · left
    unfold zeroPageRead
    split
    · exact ⟨_, rfl⟩
    · split
      · exact ⟨_, rfl⟩
      · exact ⟨_, rfl⟩
  · exact Or.inr (Or.inr ⟨trivial, by trivial⟩)

/-- Where a handler's writer stores (R134, R135, R138, R245): nowhere, or at the access's own linear address. -/
theorem execWrite_cases (P : Params) (r : Resolved) (o v : Byte) (dbg : Bool) (pc : CpuPc) (s : State) :
    execWrite P r o v dbg pc s = .reply .ok 0x00#8 s ∨
    ((r.handler = .ram ∨ r.handler = .romRw ∨ (r.handler = .priv ∧ (s.priv = true ∨ dbg = true))) ∧
      execWrite P r o v dbg pc s = .reply .ok 0x00#8 (memWrite P (atOffset r.base o) v s)) ∨
    (r.handler = .zp ∧ o ≠ 0#8 ∧ o ≠ 1#8 ∧
      execWrite P r o v dbg pc s = .reply .ok 0x00#8 (memWrite P (o.setWidth 28) v s)) ∨
    (r.handler = .zp ∧ ∃ sel, execWrite P r o v dbg pc s = .reply .ok 0x00#8 (portStore P sel v s)) ∨
    (∃ layout a, execWrite P r o v dbg pc s = .reply .ok 0x00#8 (ioWrite layout a v s)) ∨
    (r.handler = .unmapped ∧ execWrite P r o v dbg pc s = unmappedAccess (atOffset r.base o) pc true 0x00#8 s) := by
  unfold execWrite
  cases hh : r.handler <;> simp only []
  · exact Or.inr (Or.inl ⟨Or.inl trivial, by trivial⟩)
  · exact Or.inr (Or.inl ⟨Or.inr (Or.inl trivial), by trivial⟩)
  · exact Or.inl (by trivial)
  · split
    · next h => exact Or.inr (Or.inl ⟨Or.inr (Or.inr ⟨trivial, by simpa using h⟩), rfl⟩)
    · exact Or.inl rfl
  · exact Or.inr (Or.inr (Or.inr (Or.inr (Or.inl ⟨_, _, rfl⟩))))
  · exact Or.inr (Or.inr (Or.inr (Or.inr (Or.inl ⟨_, _, rfl⟩))))
  · unfold zeroPageWrite
    split
    · exact Or.inr (Or.inr (Or.inr (Or.inl ⟨trivial, _, rfl⟩)))
    · next h0 =>
      split
      · exact Or.inr (Or.inr (Or.inr (Or.inl ⟨trivial, _, rfl⟩)))
      · next h1 => exact Or.inr (Or.inr (Or.inl ⟨trivial, h0, h1, rfl⟩))
  · exact Or.inr (Or.inr (Or.inr (Or.inr (Or.inr ⟨trivial, by trivial⟩))))

/-! ### What the handlers leave alone -/

/-- An UnmappedAccess and the response after it change nothing but the policy, `run`, and what crosses the boundary. -/
theorem finish_unmapped_frame (l : LinAddr) (pc : CpuPc) (w : Bool) (v : Byte) (s : State) :
    ∃ m r c p e, finish (unmappedAccess l pc w v s) =
      { s with unmappedMode := m, run := r, choices := c, rsp := p, events := e } := by
  rcases unmappedAccess_cases l pc w v s with ⟨_, h⟩ | ⟨_, _, h⟩ | ⟨_, _, h⟩ | ⟨_, _, h⟩ <;>
    rw [h] <;> exact ⟨_, _, _, _, _, rfl⟩

/-- A handler's reader changes no register, no slot and no byte of the store (R77, R143). -/
theorem finish_execRead_frame (P : Params) (r : Resolved) (o : Byte) (dbg : Bool) (pc : CpuPc) (s : State) :
    ∃ a m n c p e, finish (execRead P r o dbg pc s) =
      { s with ioAnswers := a, unmappedMode := m, run := n, choices := c, rsp := p, events := e } := by
  rcases execRead_cases P r o dbg pc s with ⟨v, h⟩ | ⟨_, _, h⟩ | ⟨_, h⟩
  · rw [h]; exact ⟨_, _, _, _, _, _, rfl⟩
  · rw [h]; exact ⟨_, _, _, _, _, _, rfl⟩
  · obtain ⟨m, n, c, p, e, h'⟩ := finish_unmapped_frame (atOffset r.base o) pc false dummyByte s
    rw [h, h']; exact ⟨_, _, _, _, _, _, rfl⟩

/-- A handler's writer other than the zero page's changes no register and no slot (R143). -/
theorem finish_execWrite_frame (P : Params) {r : Resolved} (hr : r.handler ≠ .zp) (o v : Byte) (dbg : Bool) (pc : CpuPc)
    (s : State) :
    ∃ b m n c p e, finish (execWrite P r o v dbg pc s) =
      { s with mem := b, unmappedMode := m, run := n, choices := c, rsp := p, events := e } := by
  rcases execWrite_cases P r o v dbg pc s with h | ⟨_, h⟩ | ⟨h, _⟩ | ⟨h, _⟩ | ⟨_, _, h⟩ | ⟨_, h⟩
  · rw [h]; exact ⟨_, _, _, _, _, _, rfl⟩
  · rw [h]; exact ⟨_, _, _, _, _, _, rfl⟩
  · exact absurd h hr
  · exact absurd h hr
  · rw [h]; exact ⟨_, _, _, _, _, _, rfl⟩
  · obtain ⟨m, n, c, p, e, h'⟩ := finish_unmapped_frame (atOffset r.base o) pc true 0x00#8 s
    rw [h, h']; exact ⟨_, _, _, _, _, _, rfl⟩

/-- No linear page gets the zero-page handler (R131, R132). -/
theorem handlerOf_ne_zp (k : RegionKind) (w : Bool) : handlerOf k w ≠ .zp := by
  cases k <;> cases w <;> simp [handlerOf]

end Sys2Proof.Machine
end

