-- ==== Sys2Proof/Laws/Step.lean ====
section
/-! SUPPORT. The default machine is the parametric one at the default parameters (log entry 5), and what one step takes. -/

namespace Sys2Proof.Machine

/-- `exec` is the parametric meaning at the default parameters. -/
theorem execAt_params (i : Instr) (s : State) : execAt params i s = exec i s := by cases i <;> rfl

theorem execAt_params_fun : execAt params = exec := by
  funext i s; exact execAt_params i s

/-- `step` is the parametric step at the default parameters. -/
theorem stepAt_params (s : State) : stepAt params s = step s := by
  unfold stepAt step; rw [execAt_params_fun]

/-- A step with no input. -/
theorem nextInput_idle {P : Params} {m : Instr → State → Result} {s : State} (h : s.inbox = []) :
    nextInput P m s = .next s := by
  unfold nextInput; rw [h]

/-- A step that takes `reset`. -/
theorem nextInput_reset {P : Params} {m : Instr → State → Result} {s : State} {rest : List Input}
    (h : s.inbox = .reset :: rest) : nextInput P m s = .next (applyReset P { s with inbox := rest }) := by
  unfold nextInput; rw [h]

/-- A step that takes a request. -/
theorem nextInput_request {P : Params} {m : Instr → State → Result} {s : State} {w : Request} {rest : List Input}
    (h : s.inbox = .request w :: rest) : nextInput P m s = runRequest m w (takeRequest w rest s) := by
  unfold nextInput; rw [h]

/-- The three things a step can take. -/
theorem nextInput_cases (P : Params) (m : Instr → State → Result) (s : State) :
    (s.inbox = [] ∧ nextInput P m s = .next s) ∨
    (∃ rest, s.inbox = .reset :: rest ∧ nextInput P m s = .next (applyReset P { s with inbox := rest })) ∨
    (∃ w rest, s.inbox = .request w :: rest ∧ nextInput P m s = runRequest m w (takeRequest w rest s)) := by
  cases h : s.inbox with
  | nil => exact Or.inl ⟨rfl, nextInput_idle h⟩
  | cons x rest =>
    cases x with
    | reset => exact Or.inr (Or.inl ⟨rest, rfl, nextInput_reset h⟩)
    | request w => exact Or.inr (Or.inr ⟨w, rest, rfl, nextInput_request h⟩)

/-- The next request after `withFetchWord` is the presented one. -/
@[simp] theorem withFetchWord_inbox (s : State) (nbits w : Nat) :
    (s.withFetchWord nbits w).inbox = .request (BitVec.ofNat 64 (w % 2 ^ nbits)) :: s.inbox := rfl

end Sys2Proof.Machine
end

