-- ==== Sys2Proof/Laws/Access.lean ====
section
/-! SUPPORT. The thirteen access operations in one form: with a transparent cache, an access is the handler of the freshly
resolved page, run on the state in which the operation's own slot holds that resolution (R218, R226, R230, R273). -/

namespace Sys2Proof.Machine

/-! ### What filling the operation's slot leaves alone -/

@[simp] theorem slotFilled_portDdr (P : Params) (i : Instr) (s : State) : (slotFilled P i s).portDdr = s.portDdr := by
  cases i <;> rfl
@[simp] theorem slotFilled_portData (P : Params) (i : Instr) (s : State) : (slotFilled P i s).portData = s.portData := by
  cases i <;> rfl
@[simp] theorem slotFilled_romvis (P : Params) (i : Instr) (s : State) : (slotFilled P i s).romvis = s.romvis := by
  cases i <;> rfl
@[simp] theorem slotFilled_priv (P : Params) (i : Instr) (s : State) : (slotFilled P i s).priv = s.priv := by
  cases i <;> rfl
@[simp] theorem slotFilled_ioLayout (P : Params) (i : Instr) (s : State) : (slotFilled P i s).ioLayout = s.ioLayout := by
  cases i <;> rfl
@[simp] theorem slotFilled_romWp (P : Params) (i : Instr) (s : State) : (slotFilled P i s).romWp = s.romWp := by
  cases i <;> rfl
@[simp] theorem slotFilled_map (P : Params) (i : Instr) (s : State) : (slotFilled P i s).map = s.map := by
  cases i <;> rfl
@[simp] theorem slotFilled_irqInhibit (P : Params) (i : Instr) (s : State) :
    (slotFilled P i s).irqInhibit = s.irqInhibit := by cases i <;> rfl
@[simp] theorem slotFilled_mem (P : Params) (i : Instr) (s : State) : (slotFilled P i s).mem = s.mem := by
  cases i <;> rfl
@[simp] theorem slotFilled_unmappedMode (P : Params) (i : Instr) (s : State) :
    (slotFilled P i s).unmappedMode = s.unmappedMode := by cases i <;> rfl
@[simp] theorem slotFilled_run (P : Params) (i : Instr) (s : State) : (slotFilled P i s).run = s.run := by
  cases i <;> rfl
@[simp] theorem slotFilled_inbox (P : Params) (i : Instr) (s : State) : (slotFilled P i s).inbox = s.inbox := by
  cases i <;> rfl
@[simp] theorem slotFilled_ioAnswers (P : Params) (i : Instr) (s : State) :
    (slotFilled P i s).ioAnswers = s.ioAnswers := by cases i <;> rfl
@[simp] theorem slotFilled_choices (P : Params) (i : Instr) (s : State) : (slotFilled P i s).choices = s.choices := by
  cases i <;> rfl
@[simp] theorem slotFilled_rsp (P : Params) (i : Instr) (s : State) : (slotFilled P i s).rsp = s.rsp := by
  cases i <;> rfl
@[simp] theorem slotFilled_events (P : Params) (i : Instr) (s : State) : (slotFilled P i s).events = s.events := by
  cases i <;> rfl

/-- Filling a page slot changes the page slots only. -/
theorem fillPageSlot_eq (P : Params) (p : PageNo) (s : State) :
    fillPageSlot P p s = { s with pslots := (fillPageSlot P p s).pslots } := by
  unfold fillPageSlot; split <;> rfl

/-- Filling the operation's slot keeps the page slots canonical. -/
theorem pagesWf_slotFilled {s : State} (P : Params) (i : Instr) (h : pagesWf s) : pagesWf (slotFilled P i s) := by
  unfold slotFilled
  split
  · exact pagesWf_congr (s := fillPageSlot P _ s) rfl (pagesWf_fillPageSlot P _ h)
  · split
    · exact pagesWf_congr (s := s) rfl h
    · exact h

/-- Filling the operation's slot keeps the cache transparent (R216, R230). -/
theorem transparent_slotFilled {s : State} {P : Params} (i : Instr) (h : transparent P s) :
    transparent P (slotFilled P i s) := by
  have hres : ∀ p, resolveCpuPage P (slotFilled P i s) p = resolveCpuPage P s p := fun p =>
    resolveCpuPage_same P (by simp) (by simp) (by simp) (by simp) (by simp) (by simp) p
  refine ⟨fun p r hr => ?_, fun k r hr => ?_⟩
  · rw [hres]
    unfold slotFilled at hr
    split at hr
    · next q _ =>
      change pslotAt p (fillPageSlot P q s) = some r at hr
      by_cases hq : p = q
      · subst hq
        rw [pslotAt_fillPageSlot_self, pageSlotValue_transparent h.1] at hr
        simpa using hr.symm
      · rw [pslotAt_fillPageSlot_ne hq] at hr
        exact h.1 p r hr
    · split at hr
      · exact h.1 p r hr
      · exact h.1 p r hr
  · rw [slotFilled_romWp]
    unfold slotFilled at hr
    split at hr
    · exact h.2 k r hr
    · split at hr
      · next e _ =>
        rw [sslotAt, specialGet_put] at hr
        split at hr
        · have : resolveLinearPage P s.romWp (linearPage e.1) = r := by simpa using hr
          subst this; rfl
        · exact h.2 k r hr
      · exact h.2 k r hr

/-! ### The normal form of an access -/

theorem linSlot_normal {P : Params} {s : State} (h : transparent P s) (k : SpecialSlot) (a : WideAddr) :
    linSlotValue P k (linearPage a) s = resolveLinearPage P s.romWp (linearPage a) ∧
    fillLinSlot P k (linearPage a) s =
      { s with sslots := specialPut k (some (resolveLinearPage P s.romWp (linearPage a))) s.sslots } :=
  ⟨linSlotValue_transparent h.2 k _, fillLinSlot_transparent h.2 k _⟩

theorem linearAccess_some {P : Params} {a : WideAddr} {v : Byte} {dbg : Bool} {pc : CpuPc} {s : State} {x : Access}
    (h : linearAccess P a v dbg pc s = some x) :
    inLinearSpace a = true ∧
      x = { page := resolveLinearPage P s.romWp (linearPage a), offset := linearOffset a, data := v, dbg := dbg, pc := pc } := by
  unfold linearAccess at h
  split at h
  · next ha => exact ⟨by simpa [inLinearSpace] using ha, by simpa using h.symm⟩
  · cases h

/-- A read of the access paths on a running block with a transparent cache. -/
theorem execAt_read {P : Params} {i : Instr} {s : State} {x : Access} (hi : isAccessRead i = true)
    (hr : s.run = .running) (ht : transparent P s) (hx : accessOf P i s = some x) :
    execAt P i s = .next (finish (execRead P x.page x.offset x.dbg x.pc (slotFilled P i s))) := by
  cases i with
  | cpuRead a pc =>
    have hx : cpuAccess P a 0#8 false pc s = x := by simpa [accessOf] using hx
    subst hx
    simp only [execAt, opCpuRead, operate_running hr, cpuSlotRead, pageSlotValue_transparent ht.1]
    rw [fillPageSlot_eq]; rfl
  | dbgCpuRead a pc =>
    have hx : cpuAccess P a 0#8 true pc s = x := by simpa [accessOf] using hx
    subst hx
    simp only [execAt, opDbgCpuRead, operate_running hr]
    rfl
  | flatRead a pc =>
    obtain ⟨h1, rfl⟩ := linearAccess_some (show linearAccess P a 0#8 false pc s = some x from hx)
    simp only [execAt, opFlatRead, linReadOp, operate_running hr, linSlotRead, h1, if_true, linSlot_normal ht]
    rfl
  | dmaListRead a pc =>
    obtain ⟨h1, rfl⟩ := linearAccess_some (show linearAccess P a 0#8 false pc s = some x from hx)
    simp only [execAt, opDmaListRead, linReadOp, operate_running hr, linSlotRead, h1, if_true, linSlot_normal ht]
    rfl
  | dmaSrcRead a pc =>
    obtain ⟨h1, rfl⟩ := linearAccess_some (show linearAccess P a 0#8 false pc s = some x from hx)
    simp only [execAt, opDmaSrcRead, linReadOp, operate_running hr, linSlotRead, h1, if_true, linSlot_normal ht]
    rfl
  | dmaTgtRead a pc =>
    obtain ⟨h1, rfl⟩ := linearAccess_some (show linearAccess P a 0#8 false pc s = some x from hx)
    simp only [execAt, opDmaTgtRead, linReadOp, operate_running hr, linSlotRead, h1, if_true, linSlot_normal ht]
    rfl
  | dbgLinRead a pc =>
    obtain ⟨h1, rfl⟩ := linearAccess_some (show linearAccess P a 0#8 true pc s = some x from hx)
    simp only [execAt, opDbgLinRead, linReadOp, operate_running hr, linSlotRead, h1, if_true, linSlot_normal ht]
    rfl
  | _ => simp [isAccessRead] at hi

/-- A write of the access paths on a running block with a transparent cache. -/
theorem execAt_write {P : Params} {i : Instr} {s : State} {x : Access} (hi : isAccessWrite i = true)
    (hr : s.run = .running) (ht : transparent P s) (hx : accessOf P i s = some x) :
    execAt P i s = .next (finish (execWrite P x.page x.offset x.data x.dbg x.pc (slotFilled P i s))) := by
  cases i with
  | cpuWrite a v pc =>
    have hx : cpuAccess P a v false pc s = x := by simpa [accessOf] using hx
    subst hx
    simp only [execAt, opCpuWrite, operate_running hr, cpuSlotWrite, pageSlotValue_transparent ht.1]
    rw [fillPageSlot_eq]; rfl
  | dbgCpuWrite a v pc =>
    have hx : cpuAccess P a v true pc s = x := by simpa [accessOf] using hx
    subst hx
    simp only [execAt, opDbgCpuWrite, operate_running hr]
    rfl
  | flatWrite a v pc =>
    obtain ⟨h1, rfl⟩ := linearAccess_some (show linearAccess P a v false pc s = some x from hx)
    simp only [execAt, opFlatWrite, linWriteOp, operate_running hr, linSlotWrite, h1, if_true, linSlot_normal ht]
    rfl
  | dmaSrcWrite a v pc =>
    obtain ⟨h1, rfl⟩ := linearAccess_some (show linearAccess P a v false pc s = some x from hx)
    simp only [execAt, opDmaSrcWrite, linWriteOp, operate_running hr, linSlotWrite, h1, if_true, linSlot_normal ht]
    rfl
  | dmaTgtWrite a v pc =>
    obtain ⟨h1, rfl⟩ := linearAccess_some (show linearAccess P a v false pc s = some x from hx)
    simp only [execAt, opDmaTgtWrite, linWriteOp, operate_running hr, linSlotWrite, h1, if_true, linSlot_normal ht]
    rfl
  | dbgLinWrite a v pc =>
    obtain ⟨h1, rfl⟩ := linearAccess_some (show linearAccess P a v true pc s = some x from hx)
    simp only [execAt, opDbgLinWrite, linWriteOp, operate_running hr, linSlotWrite, h1, if_true, linSlot_normal ht]
    rfl
  | _ => simp [isAccessWrite] at hi

/-- A linear operation with an address outside the linear space halts the block (R282), whatever its slots hold. -/
theorem execAt_impossible {P : Params} {i : Instr} {s : State} {a : WideAddr} {k : SpecialSlot} {pc : CpuPc}
    (hi : linearOperand i = some (a, k, pc)) (hr : s.run = .running) (ha : inLinearSpace a = false) :
    execAt P i s = .next (halt .impossible a pc s) := by
  cases i <;> simp only [linearOperand, Option.some.injEq, Prod.mk.injEq, reduceCtorEq] at hi <;>
    obtain ⟨rfl, rfl, rfl⟩ := hi <;>
    simp [execAt, opFlatRead, opFlatWrite, opDmaListRead, opDmaSrcRead, opDmaSrcWrite, opDmaTgtRead, opDmaTgtWrite,
      opDbgLinRead, opDbgLinWrite, linReadOp, linWriteOp, operate_running hr, linSlotRead, linSlotWrite, ha, finish]

/-- Every operation of a halted block (R289). -/
theorem execAt_halted {P : Params} (i : Instr) {s : State} (h : s.run ≠ .running) :
    execAt P i s = .next { s with rsp := none } := by
  have key : ∀ f : State → State, operate f s = .next { s with rsp := none } := fun f => by
    rcases operate_cases f s with ⟨h1, _⟩ | ⟨_, h2⟩
    · exact absurd h1 h
    · exact h2
  cases i <;>
    simp only [execAt, opCpuRead, opCpuWrite, opFlatRead, opFlatWrite, opDmaListRead, opDmaSrcRead, opDmaSrcWrite,
      opDmaTgtRead, opDmaTgtWrite, opDbgLinRead, opDbgLinWrite, opDbgCpuRead, opDbgCpuWrite, linReadOp, linWriteOp,
      opPortWrite, opRomselWrite, opMapApply, opMapCommit, opPrivSet, opLayoutSet, opRomwpSet, key]

/-- An operation is a configuration operation, an access to a resolvable address, or a linear one outside the space. -/
theorem operation_cases (P : Params) (i : Instr) (s : State) :
    isConfiguration i = true ∨
    (isAccessRead i = true ∧ ∃ x, accessOf P i s = some x) ∨
    (isAccessWrite i = true ∧ ∃ x, accessOf P i s = some x) ∨
    (∃ a k pc, linearOperand i = some (a, k, pc) ∧ inLinearSpace a = false) := by
  have key : ∀ (a : WideAddr) v dbg pc, (∃ x, linearAccess P a v dbg pc s = some x) ∨ inLinearSpace a = false := by
    intro a v dbg pc
    unfold linearAccess inLinearSpace
    by_cases h : a.toNat < 2 ^ 28
    · left; rw [if_pos h]; exact ⟨_, rfl⟩
    · right; simpa using h
  cases i with
  | cpuRead a pc => exact Or.inr (Or.inl ⟨rfl, _, rfl⟩)
  | dbgCpuRead a pc => exact Or.inr (Or.inl ⟨rfl, _, rfl⟩)
  | cpuWrite a v pc => exact Or.inr (Or.inr (Or.inl ⟨rfl, _, rfl⟩))
  | dbgCpuWrite a v pc => exact Or.inr (Or.inr (Or.inl ⟨rfl, _, rfl⟩))
  | flatRead a pc =>
    exact (key a 0#8 false pc).elim (fun h => Or.inr (Or.inl ⟨rfl, h⟩)) fun h => Or.inr (Or.inr (Or.inr ⟨_, _, _, rfl, h⟩))
  | dmaListRead a pc =>
    exact (key a 0#8 false pc).elim (fun h => Or.inr (Or.inl ⟨rfl, h⟩)) fun h => Or.inr (Or.inr (Or.inr ⟨_, _, _, rfl, h⟩))
  | dmaSrcRead a pc =>
    exact (key a 0#8 false pc).elim (fun h => Or.inr (Or.inl ⟨rfl, h⟩)) fun h => Or.inr (Or.inr (Or.inr ⟨_, _, _, rfl, h⟩))
  | dmaTgtRead a pc =>
    exact (key a 0#8 false pc).elim (fun h => Or.inr (Or.inl ⟨rfl, h⟩)) fun h => Or.inr (Or.inr (Or.inr ⟨_, _, _, rfl, h⟩))
  | dbgLinRead a pc =>
    exact (key a 0#8 true pc).elim (fun h => Or.inr (Or.inl ⟨rfl, h⟩)) fun h => Or.inr (Or.inr (Or.inr ⟨_, _, _, rfl, h⟩))
  | flatWrite a v pc =>
    exact (key a v false pc).elim (fun h => Or.inr (Or.inr (Or.inl ⟨rfl, h⟩))) fun h => Or.inr (Or.inr (Or.inr ⟨_, _, _, rfl, h⟩))
  | dmaSrcWrite a v pc =>
    exact (key a v false pc).elim (fun h => Or.inr (Or.inr (Or.inl ⟨rfl, h⟩))) fun h => Or.inr (Or.inr (Or.inr ⟨_, _, _, rfl, h⟩))
  | dmaTgtWrite a v pc =>
    exact (key a v false pc).elim (fun h => Or.inr (Or.inr (Or.inl ⟨rfl, h⟩))) fun h => Or.inr (Or.inr (Or.inr ⟨_, _, _, rfl, h⟩))
  | dbgLinWrite a v pc =>
    exact (key a v true pc).elim (fun h => Or.inr (Or.inr (Or.inl ⟨rfl, h⟩))) fun h => Or.inr (Or.inr (Or.inr ⟨_, _, _, rfl, h⟩))
  | _ => exact Or.inl rfl

/-! ### The general form, whatever the slots hold -/

/-- A read through a special slot is the impossible address's halt, or a handler's reader on the state with a slot filled. -/
theorem linSlotRead_cases (P : Params) (k : SpecialSlot) (a : WideAddr) (dbg : Bool) (pc : CpuPc) (s : State) :
    (inLinearSpace a = false ∧ linSlotRead P k a dbg pc s = .ended (halt .impossible a pc s)) ∨
    ∃ r o t, linSlotRead P k a dbg pc s = execRead P r o dbg pc { s with sslots := t } := by
  unfold linSlotRead
  cases h : inLinearSpace a
  · exact Or.inl ⟨rfl, rfl⟩
  · refine Or.inr ⟨linSlotValue P k (linearPage a) s, linearOffset a, (fillLinSlot P k (linearPage a) s).sslots, ?_⟩
    have e : fillLinSlot P k (linearPage a) s = { s with sslots := (fillLinSlot P k (linearPage a) s).sslots } := by
      unfold fillLinSlot; split <;> rfl
    rw [if_pos rfl]
    exact congrArg (execRead P _ _ dbg pc) e

/-- A write through a special slot, as for a read. -/
theorem linSlotWrite_cases (P : Params) (k : SpecialSlot) (a : WideAddr) (v : Byte) (dbg : Bool) (pc : CpuPc) (s : State) :
    (inLinearSpace a = false ∧ linSlotWrite P k a v dbg pc s = .ended (halt .impossible a pc s)) ∨
    ∃ r o t, linSlotWrite P k a v dbg pc s = execWrite P r o v dbg pc { s with sslots := t } := by
  unfold linSlotWrite
  cases h : inLinearSpace a
  · exact Or.inl ⟨rfl, rfl⟩
  · refine Or.inr ⟨linSlotValue P k (linearPage a) s, linearOffset a, (fillLinSlot P k (linearPage a) s).sslots, ?_⟩
    have e : fillLinSlot P k (linearPage a) s = { s with sslots := (fillLinSlot P k (linearPage a) s).sslots } := by
      unfold fillLinSlot; split <;> rfl
    rw [if_pos rfl]
    exact congrArg (execWrite P _ _ v dbg pc) e

/-- An access read of a running block: a halt on an impossible address, or a handler's reader on the state with a slot
filled. -/
theorem execAt_read_cases (P : Params) {i : Instr} {s : State} (hi : isAccessRead i = true) (hr : s.run = .running) :
    (∃ a k pc, linearOperand i = some (a, k, pc) ∧ inLinearSpace a = false ∧
      execAt P i s = .next (halt .impossible a pc s)) ∨
    ∃ r o dbg pc p t, execAt P i s = .next (finish (execRead P r o dbg pc { s with pslots := p, sslots := t })) := by
  have lin : ∀ k a dbg pc, linearOperand i = some (a, k, pc) → execAt P i s = linReadOp P k a dbg pc s →
      (∃ a k pc, linearOperand i = some (a, k, pc) ∧ inLinearSpace a = false ∧
        execAt P i s = .next (halt .impossible a pc s)) ∨
      ∃ r o dbg pc p t, execAt P i s = .next (finish (execRead P r o dbg pc { s with pslots := p, sslots := t })) := by
    intro k a dbg pc ho he
    rw [he, linReadOp, operate_running hr]
    rcases linSlotRead_cases P k a dbg pc s with ⟨h1, h2⟩ | ⟨r, o, t, h⟩
    · exact Or.inl ⟨a, k, pc, ho, h1, by rw [h2]; rfl⟩
    · exact Or.inr ⟨r, o, dbg, pc, s.pslots, t, by rw [h]⟩
  cases i with
  | cpuRead a pc =>
    refine Or.inr ⟨pageSlotValue P (cpuPage a) s, cpuOffset a, false, pc, (fillPageSlot P (cpuPage a) s).pslots, s.sslots, ?_⟩
    rw [execAt, opCpuRead, operate_running hr, cpuSlotRead]
    exact congrArg (fun u => Host.Outcome.next (finish (execRead P _ _ false pc u))) (fillPageSlot_eq P (cpuPage a) s)
  | dbgCpuRead a pc =>
    refine Or.inr ⟨resolveCpuPage P s (cpuPage a), cpuOffset a, true, pc, s.pslots, s.sslots, ?_⟩
    rw [execAt, opDbgCpuRead, operate_running hr, debugCpuRead]
  | flatRead a pc => exact lin _ _ _ _ rfl rfl
  | dmaListRead a pc => exact lin _ _ _ _ rfl rfl
  | dmaSrcRead a pc => exact lin _ _ _ _ rfl rfl
  | dmaTgtRead a pc => exact lin _ _ _ _ rfl rfl
  | dbgLinRead a pc => exact lin _ _ _ _ rfl rfl
  | _ => simp [isAccessRead] at hi

/-- An access write of a running block, as for a read. -/
theorem execAt_write_cases (P : Params) {i : Instr} {s : State} (hi : isAccessWrite i = true) (hr : s.run = .running) :
    (∃ a k pc, linearOperand i = some (a, k, pc) ∧ inLinearSpace a = false ∧
      execAt P i s = .next (halt .impossible a pc s)) ∨
    ∃ r o v dbg pc p t, execAt P i s = .next (finish (execWrite P r o v dbg pc { s with pslots := p, sslots := t })) := by
  have lin : ∀ k a v dbg pc, linearOperand i = some (a, k, pc) → execAt P i s = linWriteOp P k a v dbg pc s →
      (∃ a k pc, linearOperand i = some (a, k, pc) ∧ inLinearSpace a = false ∧
        execAt P i s = .next (halt .impossible a pc s)) ∨
      ∃ r o v dbg pc p t, execAt P i s = .next (finish (execWrite P r o v dbg pc { s with pslots := p, sslots := t })) := by
    intro k a v dbg pc ho he
    rw [he, linWriteOp, operate_running hr]
    rcases linSlotWrite_cases P k a v dbg pc s with ⟨h1, h2⟩ | ⟨r, o, t, h⟩
    · exact Or.inl ⟨a, k, pc, ho, h1, by rw [h2]; rfl⟩
    · exact Or.inr ⟨r, o, v, dbg, pc, s.pslots, t, by rw [h]⟩
  cases i with
  | cpuWrite a v pc =>
    refine Or.inr ⟨pageSlotValue P (cpuPage a) s, cpuOffset a, v, false, pc, (fillPageSlot P (cpuPage a) s).pslots,
      s.sslots, ?_⟩
    rw [execAt, opCpuWrite, operate_running hr, cpuSlotWrite]
    exact congrArg (fun u => Host.Outcome.next (finish (execWrite P _ _ v false pc u))) (fillPageSlot_eq P (cpuPage a) s)
  | dbgCpuWrite a v pc =>
    refine Or.inr ⟨resolveCpuPage P s (cpuPage a), cpuOffset a, v, true, pc, s.pslots, s.sslots, ?_⟩
    rw [execAt, opDbgCpuWrite, operate_running hr, debugCpuWrite]
  | flatWrite a v pc => exact lin _ _ _ _ _ rfl rfl
  | dmaSrcWrite a v pc => exact lin _ _ _ _ _ rfl rfl
  | dmaTgtWrite a v pc => exact lin _ _ _ _ _ rfl rfl
  | dbgLinWrite a v pc => exact lin _ _ _ _ _ rfl rfl
  | _ => simp [isAccessWrite] at hi

/-- Every operation is a read or a write of the access paths or a configuration operation. -/
theorem operation_kinds (i : Instr) : isAccessRead i = true ∨ isAccessWrite i = true ∨ isConfiguration i = true := by
  cases i <;> simp [isAccessRead, isAccessWrite, isConfiguration]

end Sys2Proof.Machine
end

