-- ==== Sys2Proof/Laws/Decode.lean ====
section
/-! SUPPORT. The fields of a request word built from its fields (R100), and the operand fields built from operands
(R110 to R113). -/

namespace Sys2Proof

@[simp] theorem reqOp_requestWord (op data : Byte) (pc : CpuPc) (arg : WideAddr) :
    reqOp (requestWord op data pc arg) = op := by
  unfold reqOp requestWord; grind

@[simp] theorem reqData_requestWord (op data : Byte) (pc : CpuPc) (arg : WideAddr) :
    reqData (requestWord op data pc arg) = data := by
  unfold reqData requestWord; grind

@[simp] theorem reqPc_requestWord (op data : Byte) (pc : CpuPc) (arg : WideAddr) :
    reqPc (requestWord op data pc arg) = pc := by
  unfold reqPc requestWord; grind

@[simp] theorem reqArg_requestWord (op data : Byte) (pc : CpuPc) (arg : WideAddr) :
    reqArg (requestWord op data pc arg) = arg := by
  unfold reqArg requestWord; grind

@[simp] theorem reqAddr16_requestWord (op data : Byte) (pc : CpuPc) (a : CpuAddr) :
    reqAddr16 (requestWord op data pc (argOfAddr16 a)) = a := by
  unfold reqAddr16; rw [reqArg_requestWord]; unfold argOfAddr16; grind

@[simp] theorem reqSel_requestWord (op data : Byte) (pc : CpuPc) (sel : PortReg) :
    reqSel (requestWord op data pc (argOfSel sel)) = sel := by
  unfold reqSel; rw [reqArg_requestWord]; cases sel <;> rfl

/-- The four bytes of a format-M argument, lowest first (R113). -/
theorem reqArgByte_requestWord (op data : Byte) (pc : CpuPc) (a x y z : Byte) :
    reqArgByte 0 (requestWord op data pc (z ++ y ++ x ++ a)) = a ∧
    reqArgByte 1 (requestWord op data pc (z ++ y ++ x ++ a)) = x ∧
    reqArgByte 2 (requestWord op data pc (z ++ y ++ x ++ a)) = y ∧
    reqArgByte 3 (requestWord op data pc (z ++ y ++ x ++ a)) = z := by
  unfold reqArgByte; rw [reqArg_requestWord]; refine ⟨?_, ?_, ?_, ?_⟩ <;> grind

@[simp] theorem byteOfBit_bit (b : Bool) : (byteOfBit b).getLsbD 0 = b := by cases b <;> rfl

theorem lowNibble_append (v : BitVec 4) : (0#4 ++ v : Byte).extractLsb' 0 4 = v := by grind

theorem lowPair_append (v : BitVec 2) : (0#6 ++ v : Byte).extractLsb' 0 2 = v := by grind

/-- Every operation's word carries its opcode (R102). -/
theorem reqOp_encode (i : Instr) : reqOp (encode i) = i.opcode := by
  cases i <;> exact reqOp_requestWord _ _ _ _

end Sys2Proof
end

