-- ==== Sys2Proof/Laws/Operands.lean ====
section
/-! SUPPORT. The address fields as numbers (R13, R197, R217, R225), and that no sum `base + o` wraps for a page's base
(R133). -/

namespace Sys2Proof.Machine

/-- Concatenation as arithmetic. -/
theorem toNat_append_add {m n : Nat} (x : BitVec m) (y : BitVec n) : (x ++ y).toNat = x.toNat * 2 ^ n + y.toNat := by
  rw [BitVec.toNat_append, ← Nat.shiftLeft_add_eq_or_of_lt y.isLt, Nat.shiftLeft_eq]

/-- A page's base is a multiple of 256. -/
theorem baseAligned_iff (b : LinAddr) : baseAligned b ↔ b.toNat % 256 = 0 := by
  unfold baseAligned
  rw [← BitVec.toNat_inj]
  simp [BitVec.extractLsb'_toNat]

/-- R133: no wrap for a page's base. -/
theorem atOffset_toNat {b : LinAddr} (h : baseAligned b) (o : Byte) : (atOffset b o).toNat = b.toNat + o.toNat := by
  rw [baseAligned_iff] at h
  unfold atOffset
  have h1 := b.isLt
  have h2 := o.isLt
  simp only [BitVec.toNat_add, BitVec.toNat_setWidth]
  omega

/-- R13: the page's base of a linear address. -/
theorem linearPage_aligned (a : WideAddr) : baseAligned (linearPage a) := by
  unfold baseAligned linearPage; grind

theorem pageIdentity_toNat (p : PageNo) : (pageIdentity p).toNat = p.toNat * 256 := by
  unfold pageIdentity pageAddr
  have := p.isLt
  rw [BitVec.toNat_setWidth, toNat_append_add]
  simp; omega

theorem pageInZone_toNat (p : PageNo) : (pageInZone p).toNat = (p.toNat % 16) * 256 := by
  unfold pageInZone
  rw [BitVec.toNat_setWidth, toNat_append_add]
  simp [BitVec.extractLsb'_toNat]; omega

theorem pageIdentity_aligned (p : PageNo) : baseAligned (pageIdentity p) := by
  rw [baseAligned_iff, pageIdentity_toNat]; omega

/-- A sum of page bases is a page base. -/
theorem baseAligned_add {a b : LinAddr} (ha : baseAligned a) (hb : baseAligned b) : baseAligned (a + b) := by
  rw [baseAligned_iff] at *
  rw [BitVec.toNat_add]; omega

theorem pageInZone_aligned (p : PageNo) : baseAligned (pageInZone p) := by
  rw [baseAligned_iff, pageInZone_toNat]; omega

/-- R193: with an aligned offset a page translates to a page's base. -/
theorem mapTranslate_aligned (mb : Byte) {off : BitVec 20} (h : off.extractLsb' 0 8 = 0#8) (p : PageNo) :
    baseAligned (mapTranslate mb off (pageAddr p)) := by
  have h' : off.toNat % 256 = 0 := by
    have := congrArg BitVec.toNat h
    simpa [BitVec.extractLsb'_toNat] using this
  rw [baseAligned_iff]
  unfold mapTranslate pageAddr
  rw [toNat_append_add, BitVec.toNat_add, BitVec.toNat_setWidth, toNat_append_add]
  simp; omega

/-- The page and the offset give the address back (R13). -/
theorem linear_recompose {a : WideAddr} (h : inLinearSpace a = true) :
    (atOffset (linearPage a) (linearOffset a)).toNat = a.toNat := by
  rw [atOffset_toNat (linearPage_aligned a)]
  have ha : a.toNat < 2 ^ 28 := by simpa [inLinearSpace] using h
  unfold linearPage linearOffset
  rw [toNat_append_add]
  simp [BitVec.extractLsb'_toNat, Nat.shiftRight_eq_div_pow]; omega

/-- The pages of zones 0 to 7 lie below `$8000` (R195). -/
theorem pageBanked_iff (p : PageNo) : pageBanked p = true ↔ 0x80 ≤ p.toNat := by
  unfold pageBanked pageZone
  have := p.isLt
  simp [BitVec.extractLsb'_toNat, Nat.shiftRight_eq_div_pow]; omega

/-- Blocks 0 to 3 are the pages below 0x80 (R13). -/
theorem pageBlock_lt_four (p : PageNo) : (pageBlock p).toNat < 4 ↔ p.toNat < 0x80 := by
  unfold pageBlock
  have := p.isLt
  simp [BitVec.extractLsb'_toNat, Nat.shiftRight_eq_div_pow]; omega

end Sys2Proof.Machine
end

