-- ==== Sys2Proof/Laws/PerInstr.lean ====
section
/-! SUPPORT. The statement about every operation as syntax, one lemma per constructor: it is well formed, and its word
carries an opcode of the table (R102, R103). -/

namespace Sys2Proof.Laws

/-- The operation is well formed and its request word is not an illegal one. -/
def EncodesLegally.Statement (i : Instr) : Prop := i.wellFormed = true ∧ legalOpcode (reqOp (encode i)) = true

theorem EncodesLegally.cpuRead (addr : CpuAddr) (pc : CpuPc) : EncodesLegally.Statement (.cpuRead addr pc) :=
  ⟨rfl, by rw [reqOp_encode]; rfl⟩
theorem EncodesLegally.cpuWrite (addr : CpuAddr) (data : Byte) (pc : CpuPc) :
    EncodesLegally.Statement (.cpuWrite addr data pc) := ⟨rfl, by rw [reqOp_encode]; rfl⟩
theorem EncodesLegally.flatRead (addr : WideAddr) (pc : CpuPc) : EncodesLegally.Statement (.flatRead addr pc) :=
  ⟨rfl, by rw [reqOp_encode]; rfl⟩
theorem EncodesLegally.flatWrite (addr : WideAddr) (data : Byte) (pc : CpuPc) :
    EncodesLegally.Statement (.flatWrite addr data pc) := ⟨rfl, by rw [reqOp_encode]; rfl⟩
theorem EncodesLegally.dmaListRead (addr : WideAddr) (pc : CpuPc) : EncodesLegally.Statement (.dmaListRead addr pc) :=
  ⟨rfl, by rw [reqOp_encode]; rfl⟩
theorem EncodesLegally.dmaSrcRead (addr : WideAddr) (pc : CpuPc) : EncodesLegally.Statement (.dmaSrcRead addr pc) :=
  ⟨rfl, by rw [reqOp_encode]; rfl⟩
theorem EncodesLegally.dmaSrcWrite (addr : WideAddr) (data : Byte) (pc : CpuPc) :
    EncodesLegally.Statement (.dmaSrcWrite addr data pc) := ⟨rfl, by rw [reqOp_encode]; rfl⟩
theorem EncodesLegally.dmaTgtRead (addr : WideAddr) (pc : CpuPc) : EncodesLegally.Statement (.dmaTgtRead addr pc) :=
  ⟨rfl, by rw [reqOp_encode]; rfl⟩
theorem EncodesLegally.dmaTgtWrite (addr : WideAddr) (data : Byte) (pc : CpuPc) :
    EncodesLegally.Statement (.dmaTgtWrite addr data pc) := ⟨rfl, by rw [reqOp_encode]; rfl⟩
theorem EncodesLegally.dbgLinRead (addr : WideAddr) (pc : CpuPc) : EncodesLegally.Statement (.dbgLinRead addr pc) :=
  ⟨rfl, by rw [reqOp_encode]; rfl⟩
theorem EncodesLegally.dbgLinWrite (addr : WideAddr) (data : Byte) (pc : CpuPc) :
    EncodesLegally.Statement (.dbgLinWrite addr data pc) := ⟨rfl, by rw [reqOp_encode]; rfl⟩
theorem EncodesLegally.dbgCpuRead (addr : CpuAddr) (pc : CpuPc) : EncodesLegally.Statement (.dbgCpuRead addr pc) :=
  ⟨rfl, by rw [reqOp_encode]; rfl⟩
theorem EncodesLegally.dbgCpuWrite (addr : CpuAddr) (data : Byte) (pc : CpuPc) :
    EncodesLegally.Statement (.dbgCpuWrite addr data pc) := ⟨rfl, by rw [reqOp_encode]; rfl⟩
theorem EncodesLegally.portWrite (sel : PortReg) (data : Byte) : EncodesLegally.Statement (.portWrite sel data) :=
  ⟨rfl, by rw [reqOp_encode]; rfl⟩
theorem EncodesLegally.romselWrite (romvis : BitVec 4) : EncodesLegally.Statement (.romselWrite romvis) :=
  ⟨rfl, by rw [reqOp_encode]; rfl⟩
theorem EncodesLegally.mapApply (a x y z : Byte) : EncodesLegally.Statement (.mapApply a x y z) :=
  ⟨rfl, by rw [reqOp_encode]; rfl⟩
theorem EncodesLegally.mapCommit : EncodesLegally.Statement .mapCommit := ⟨rfl, by rw [reqOp_encode]; rfl⟩
theorem EncodesLegally.privSet (p : Bool) : EncodesLegally.Statement (.privSet p) := ⟨rfl, by rw [reqOp_encode]; rfl⟩
theorem EncodesLegally.layoutSet (layout : Layout) : EncodesLegally.Statement (.layoutSet layout) :=
  ⟨rfl, by rw [reqOp_encode]; rfl⟩
theorem EncodesLegally.romwpSet (wp : Bool) : EncodesLegally.Statement (.romwpSet wp) := ⟨rfl, by rw [reqOp_encode]; rfl⟩

end Sys2Proof.Laws
end

