-- ==== Sys2Proof/Laws/Regions.lean ====
section
/-! SUPPORT. The default region table (R65): it passes its self-check, each of its rows by name, and what page alignment
(R64(a)) gives a lookup. -/

namespace Sys2Proof.Machine

/-- The default table passes its self-check (R65, R311). -/
theorem selfCheck_default : selfCheck params.regionTable = true := by decide

/-- An entry of a page-aligned table claims all of a page or none of it (R64(a)). -/
theorem regionClaims_page {r : Region} (h1 : r.start % 256 = 0) (h2 : r.stop % 256 = 255) {b o : Nat} (hb : b % 256 = 0)
    (ho : o < 256) : regionClaims r (b + o) = regionClaims r b := by
  have e : (r.start ≤ b + o ∧ b + o ≤ r.stop) ↔ (r.start ≤ b ∧ b ≤ r.stop) := by omega
  unfold regionClaims
  rw [← Bool.decide_and, ← Bool.decide_and]
  exact decide_eq_decide.2 e

/-- What the self-check says, one conjunct at a time (R63, R64). -/
theorem selfCheck_parts {table : List Region} (h : selfCheck table = true) :
    tableNonEmpty table = true ∧ tableStartsAtZero table = true ∧ tableEndsAtTop table = true ∧ tableOrdered table = true ∧
      tableContiguous table = true ∧ tablePageAligned table = true ∧ tableOneShared table = true ∧
      tableOneColour table = true ∧ tableOneIo table = true ∧ tableLowPages table = true := by
  simpa [selfCheck, Bool.and_eq_true, and_assoc] using h

/-- A contiguous table that starts at `lo` and ends at `hi` claims every address between them once, and no other. -/
theorem contiguous_claims : ∀ (table : List Region) (lo hi : Nat), (∀ r ∈ table.head?, r.start = lo) → table ≠ [] →
    (∀ r ∈ table.getLast?, r.stop = hi) → tableOrdered table = true → tableContiguous table = true → ∀ l,
    (lo ≤ l ∧ l ≤ hi → ∃ r ∈ table, table.filter (fun r => regionClaims r l) = [r]) ∧
    (¬ (lo ≤ l ∧ l ≤ hi) → table.filter (fun r => regionClaims r l) = []) ∧ lo ≤ hi
  | [], _, _, _, hne, _, _, _, _ => absurd rfl hne
  | [a], lo, hi, hlo, _, hhi, ho, _, l => by
    have h1 : a.start = lo := hlo a (by simp)
    have h2 : a.stop = hi := hhi a (by simp)
    have h3 : a.start ≤ a.stop := by simpa [tableOrdered] using ho
    subst h1 h2
    refine ⟨fun h => ⟨a, by simp, ?_⟩, fun h => ?_, h3⟩
    · simp [regionClaims, h.1, h.2]
    · simpa [regionClaims] using h
  | a :: b :: rest, lo, hi, hlo, _, hhi, ho, hc, l => by
    have h1 : a.start = lo := hlo a (by simp)
    have h3 : a.start ≤ a.stop := by
      have := ho; simp [tableOrdered] at this; exact this.1
    have hc' : b.start = a.stop + 1 ∧ tableContiguous (b :: rest) = true := by simpa [tableContiguous] using hc
    have ho' : tableOrdered (b :: rest) = true := by
      have := ho; simp only [tableOrdered, List.all_cons, Bool.and_eq_true] at this ⊢; exact this.2
    obtain ⟨i1, i2, i3⟩ := contiguous_claims (b :: rest) (a.stop + 1) hi (fun r hr => by
      simp at hr; subst hr; exact hc'.1) (by simp) (fun r hr => hhi r (by simpa using hr)) ho' hc'.2 l
    subst h1
    refine ⟨fun h => ?_, fun h => ?_, by omega⟩
    · by_cases hl : l ≤ a.stop
      · refine ⟨a, by simp, ?_⟩
        rw [List.filter_cons_of_pos (by simp [regionClaims, h.1, hl]), i2 (by omega)]
      · obtain ⟨r, hr, he⟩ := i1 (by omega)
        refine ⟨r, List.mem_cons_of_mem _ hr, ?_⟩
        rw [List.filter_cons_of_neg (by simp [regionClaims]; omega), he]
    · rw [List.filter_cons_of_neg (by simp [regionClaims]; omega), i2 (by omega)]

end Sys2Proof.Machine
end

