-- ==== Sys2Proof/Tests/Slice0.lean ====
section
/-! SUPPORT. Tests. Words and expected results are those of `95_test_vectors.md` (V and P numbers beside each), never the
model's own answers; the witness theorems show, for each statement with hypotheses, concrete states and operands that meet
them. -/

namespace Sys2Proof.Tests

open Sys2Proof Sys2Proof.Machine

/-! ### Decoding and encoding: V10 -/

theorem test_decode_cpu_path :
    decode 0x100000000000A000#64 = .ok (.cpuRead 0xA000#16 0#16) ∧
    decode 0x114200000000A000#64 = .ok (.cpuWrite 0xA000#16 0x42#8 0#16) ∧
    decode 0x1200000008000010#64 = .ok (.flatRead 0x8000010#32 0#16) ∧
    decode 0x1333000008000010#64 = .ok (.flatWrite 0x8000010#32 0x33#8 0#16) := by decide

theorem test_decode_dma_path :
    decode 0x2000000000000400#64 = .ok (.dmaListRead 0x400#32 0#16) ∧
    decode 0x220000000001F810#64 = .ok (.dmaSrcRead 0x1F810#32 0#16) ∧
    decode 0x235A000000040000#64 = .ok (.dmaSrcWrite 0x40000#32 0x5A#8 0#16) ∧
    decode 0x240000000FF80010#64 = .ok (.dmaTgtRead 0xFF80010#32 0#16) ∧
    decode 0x2507C1230FF80010#64 = .ok (.dmaTgtWrite 0xFF80010#32 0x07#8 0xC123#16) := by decide

theorem test_decode_debug_path :
    decode 0x300000000FFF8000#64 = .ok (.dbgLinRead 0xFFF8000#32 0#16) ∧
    decode 0x31E500000FFD6000#64 = .ok (.dbgLinWrite 0xFFD6000#32 0xE5#8 0#16) ∧
    decode 0x320000000000E000#64 = .ok (.dbgCpuRead 0xE000#16 0#16) ∧
    decode 0x331100000000A000#64 = .ok (.dbgCpuWrite 0xA000#16 0x11#8 0#16) := by decide

theorem test_decode_configuration :
    decode 0x4037000000000001#64 = .ok (.portWrite .data 0x37#8) ∧
    decode 0x410F000000000000#64 = .ok (.romselWrite 0xF#4) ∧
    decode 0x4200000078563412#64 = .ok (.mapApply 0x12#8 0x34#8 0x56#8 0x78#8) ∧
    decode 0x4300000000000000#64 = .ok .mapCommit ∧
    decode 0x4401000000000000#64 = .ok (.privSet true) ∧
    decode 0x4503000000000000#64 = .ok (.layoutSet 3#2) ∧
    decode 0x4601000000000000#64 = .ok (.romwpSet true) := by decide

/-- V10, the second table: bits outside the format are ignored. -/
theorem test_decode_ignores_junk :
    decode 0x10FF0000DEADA000#64 = .ok (.cpuRead 0xA000#16 0#16) ∧
    decode 0x43FFFFFFFFFFFFFF#64 = .ok .mapCommit ∧
    decode 0x44FF000000000000#64 = .ok (.privSet true) ∧
    decode 0x44FE000012345678#64 = .ok (.privSet false) ∧
    decode 0x45FE000000000000#64 = .ok (.layoutSet 2#2) ∧
    decode 0x41F3000000000000#64 = .ok (.romselWrite 3#4) ∧
    decode 0x40070000FFFFFFFE#64 = .ok (.portWrite .ddr 0x07#8) ∧
    decode 0x42AA000000002123#64 = .ok (.mapApply 0x23#8 0x21#8 0x00#8 0x00#8) := by decide

/-- The encoder writes the words of V10. -/
theorem test_encode_words :
    encode (.cpuWrite 0xA000#16 0x42#8 0#16) = 0x114200000000A000#64 ∧
    encode (.dmaTgtWrite 0xFF80010#32 0x07#8 0xC123#16) = 0x2507C1230FF80010#64 ∧
    encode (.dbgLinRead 0xFFF8000#32 0#16) = 0x300000000FFF8000#64 ∧
    encode (.portWrite .data 0x37#8) = 0x4037000000000001#64 ∧
    encode (.mapApply 0x12#8 0x34#8 0x56#8 0x78#8) = 0x4200000078563412#64 ∧
    encode (.romselWrite 0xF#4) = 0x410F000000000000#64 ∧
    encode (.layoutSet 3#2) = 0x4503000000000000#64 ∧
    encode (.privSet true) = 0x4401000000000000#64 := by decide

/-- R118: the text of the operations as the vectors print them (V4, V10, V50). -/
theorem test_text :
    instrText (.cpuWrite 0xA000#16 0x42#8 0#16) = "CPU_WRITE $A000, #$42".toList ∧
    instrText (.dmaTgtWrite 0xFF80010#32 0x09#8 0xC123#16) = "DMA_TGT_WRITE $FF80010, #$09 @$C123".toList ∧
    instrText (.dmaSrcRead 0x10000000#32 0x1234#16) = "DMA_SRC_READ $10000000 @$1234".toList ∧
    instrText (.portWrite .data 0x37#8) = "PORT_WRITE #1, #$37".toList ∧
    instrText (.mapApply 0x12#8 0x34#8 0x56#8 0x78#8) = "MAP_APPLY a=#$12, x=#$34, y=#$56, z=#$78".toList ∧
    instrText (.romselWrite 0xF#4) = "ROMSEL_WRITE #$F".toList ∧ instrText (.layoutSet 3#2) = "LAYOUT_SET #3".toList := by
  decide

/-! ### Well-formedness: opcodes outside the table and tables outside the rules are refused -/

/-- The illegal words of V10, one beyond every end of the opcode ranges of R102. -/
theorem test_illegal_opcodes :
    ([0x00#8, 0x0F#8, 0x14#8, 0x1F#8, 0x21#8, 0x26#8, 0x2F#8, 0x34#8, 0x3F#8, 0x47#8, 0xFF#8].all
      fun op => !legalOpcode op) = true ∧
    decode 0x0000000000000000#64 = .error (.illegalOp 0x00#8) ∧ decode 0xFFFFFFFFFFFFFFFF#64 = .error (.illegalOp 0xFF#8) ∧
    decode 0x2100000000000400#64 = .error (.illegalOp 0x21#8) ∧ decode 0x1400000000001234#64 = .error (.illegalOp 0x14#8) ∧
    decode 0x2600000000000000#64 = .error (.illegalOp 0x26#8) ∧ decode 0x3400000000000000#64 = .error (.illegalOp 0x34#8) ∧
    decode 0x4700000000000000#64 = .error (.illegalOp 0x47#8) := by decide

/-- Every operation is well formed, whatever its operands (R116). -/
theorem test_every_operation_well_formed (i : Instr) : i.wellFormed = true := by cases i <;> rfl

/-- The default table with row `k` replaced. -/
def withRow (k : Nat) (r : Region) : List Region := regionTable.set k r

theorem test_table_default : selfCheck regionTable = true := by decide

theorem test_table_empty : tableNonEmpty [] = false ∧ selfCheck [] = false := by decide

theorem test_table_not_from_zero :
    tableStartsAtZero (withRow 0 { start := 0x100, stop := 0x001F7FF, kind := .mainRam }) = false ∧
    selfCheck (withRow 0 { start := 0x100, stop := 0x001F7FF, kind := .mainRam }) = false := by decide

theorem test_table_not_to_top :
    tableEndsAtTop (withRow 15 { start := 0xFFFC000, stop := 0xFFFFEFF, kind := .unmapped }) = false ∧
    selfCheck (withRow 15 { start := 0xFFFC000, stop := 0xFFFFEFF, kind := .unmapped }) = false := by decide

theorem test_table_backwards :
    tableOrdered (withRow 5 { start := 0x4000000, stop := 0x3FFFFFF, kind := .cartridge }) = false ∧
    selfCheck (withRow 5 { start := 0x4000000, stop := 0x3FFFFFF, kind := .cartridge }) = false := by decide

/-- The gap of V6: row 4 starting at 0x0060100. -/
theorem test_table_gap :
    tableContiguous (withRow 4 { start := 0x0060100, stop := 0x3FFFFFF, kind := .unmapped }) = false ∧
    selfCheck (withRow 4 { start := 0x0060100, stop := 0x3FFFFFF, kind := .unmapped }) = false := by decide

theorem test_table_page_straddled :
    tablePageAligned (withRow 4 { start := 0x0060080, stop := 0x3FFFFFF, kind := .unmapped }) = false ∧
    selfCheck (withRow 4 { start := 0x0060080, stop := 0x3FFFFFF, kind := .unmapped }) = false := by decide

theorem test_table_no_shared_window :
    tableOneShared (withRow 1 { start := 0x001F800, stop := 0x001FFFF, kind := .mainRam }) = false ∧
    selfCheck (withRow 1 { start := 0x001F800, stop := 0x001FFFF, kind := .mainRam }) = false := by decide

theorem test_table_two_colour_rams :
    tableOneColour (withRow 9 { start := 0xFF88000, stop := 0xFFCFFFF, kind := .colourRam }) = false ∧
    selfCheck (withRow 9 { start := 0xFF88000, stop := 0xFFCFFFF, kind := .colourRam }) = false := by decide

theorem test_table_no_io :
    tableOneIo (withRow 10 { start := 0xFFD0000, stop := 0xFFD3FFF, kind := .unmapped }) = false ∧
    selfCheck (withRow 10 { start := 0xFFD0000, stop := 0xFFD3FFF, kind := .unmapped }) = false := by decide

theorem test_table_page_zero_not_ram :
    tableLowPages (withRow 0 { start := 0x0000000, stop := 0x001F7FF, kind := .auxRam }) = false ∧
    selfCheck (withRow 0 { start := 0x0000000, stop := 0x001F7FF, kind := .auxRam }) = false := by decide

/-! ### One step of each operation -/

/-- A step that takes the request word `w`. -/
def stepWord (w : Request) (s : State) : Result := step { s with inbox := [.request w] }

/-- A field of the state a step goes to. -/
def see {α : Type} (f : State → α) : Result → Option α
  | .next t => some (f t)
  | .fault _ => none
  | .refused _ => none

/-- The reset state with some bytes of the store assumed, as the vectors list them under *start*. -/
def startWith (mem : List Host.Cell) : State := { State.reset with mem := mem }

/-- V1 step 6: code 7, `$A000` shows the ROM image. -/
theorem test_cpuRead_rom :
    see State.rsp (stepWord 0x100000000000A000#64 (startWith [(0x000A000, 0x42#8), (0x002A000, 0x94#8)])) =
      some (some 0x0094#16) := by decide

/-- V11 step 21: `$DFFF` asks the dispatcher with the layout in force. -/
theorem test_cpuRead_io :
    see (fun t => (t.rsp, t.events.drop 1)) (stepWord 0x100000000000DFFF#64
      { State.reset with ioLayout := 3#2, ioAnswers := [0xCD#8] }) =
      some (some 0x00CD#16, [.ioRead 3#2 0xFFF#12 0xCD#8, .response 0x00CD#16]) := by decide

/-- V1 step 3: code 0, `$A000` is RAM at the same linear address. -/
theorem test_cpuWrite_ram :
    see (fun t => (t.rsp, t.mem)) (stepWord 0x114200000000A000#64 { State.reset with portDdr := 0x07#8 }) =
      some (some 0x0000#16, [(0x000A000, 0x42#8)]) := by decide

/-- V41 step 3: `$0000` is the port; code 7 to 0 invalidates page 0xA0 and leaves page 0xCF alone (V21 step 1). -/
theorem test_cpuWrite_port :
    see (fun t => (t.portDdr, t.mem, pslotAt 0xA0#8 t, (pslotAt 0xCF#8 t).isSome)) (stepWord 0x1107000000000000#64
      (fillPageSlot params 0xCF#8 (fillPageSlot params 0xA0#8 State.reset))) =
      some (0x07#8, [], none, true) := by decide

/-- V4 step 2: the shared window's byte through colour RAM. -/
theorem test_flatRead_alias :
    see State.rsp (stepWord 0x120000000001F810#64 (startWith [(0xFF80010, 0x07#8)])) = some (some 0x0007#16) := by decide

/-- V11 step 6: normal mode sees the dummy of privileged RAM. -/
theorem test_flatRead_dummy :
    see State.rsp (stepWord 0x120000000FFF8000#64 (startWith [(0xFFF8000, 0x4C#8)])) = some (some 0x00FF#16) := by decide

/-- V4 step 1: the shared window has no bytes of its own. -/
theorem test_flatWrite_alias :
    see (fun t => (t.rsp, t.mem)) (stepWord 0x130700000001F810#64 State.reset) =
      some (some 0x0000#16, [(0xFF80010, 0x07#8)]) := by decide

/-- V50 (b): an unmapped write answered with abort. -/
theorem test_flatWrite_abort :
    see (fun t => (t.rsp, t.run, t.mem)) (stepWord 0x1355090000060000#64 { State.reset with choices := [0#2] }) =
      some (none, .halted .abort 0x0060000#32 0x0900#16, []) := by decide

/-- V40 step 3: the tag differs, the list slot is resolved anew. -/
theorem test_dmaListRead_retag :
    see (fun t => (t.rsp, t.sslots.list)) (stepWord 0x2000000000000500#64
      (fillLinSlot params .list 0x0000400#28 (startWith [(0x0000500, 0x0D#8)]))) =
      some (some 0x000D#16, some { base := 0x0000500#28, handler := .ram, kind := .mainRam, privDep := false }) := by decide

/-- V50 (d): an address outside the linear space; the slot keeps its page. -/
theorem test_dmaSrcRead_impossible :
    see (fun t => (t.rsp, t.run, t.sslots.src.map Resolved.base)) (stepWord 0x2200123410000000#64
      (fillLinSlot params .src 0x0000400#28 State.reset)) =
      some (none, .halted .impossible 0x10000000#32 0x1234#16, some 0x0000400#28) := by decide

/-- V11 step 16: the linear address picks the layout. -/
theorem test_dmaSrcRead_io :
    see (fun t => (t.rsp, t.events.drop 1)) (stepWord 0x220000000FFD1012#64 { State.reset with ioAnswers := [0xAB#8] }) =
      some (some 0x00AB#16, [.ioRead 1#2 0x012#12 0xAB#8, .response 0x00AB#16]) := by decide

/-- V40 step 6: a write to the protected image is dropped. -/
theorem test_dmaSrcWrite_protected :
    see (fun t => (t.rsp, t.mem, t.sslots.src.map Resolved.handler)) (stepWord 0x235500000002A011#64
      { State.reset with romWp := true }) = some (some 0x0000#16, [], some .romRo) := by decide

/-- V3 step 6. -/
theorem test_dmaTgtRead :
    see State.rsp (stepWord 0x2400000000040000#64 (startWith [(0x0040000, 0x77#8)])) = some (some 0x0077#16) := by decide

/-- V4 step 4: colour RAM by its own address. -/
theorem test_dmaTgtWrite :
    see (fun t => (t.rsp, t.mem)) (stepWord 0x2509C1230FF80010#64 (startWith [(0xFF80010, 0x07#8)])) =
      some (some 0x0000#16, [(0xFF80010, 0x09#8)]) := by decide

/-- V11 step 15: `IoWrite(3, 0x020, 0x05)`. -/
theorem test_dmaTgtWrite_io :
    see (fun t => (t.rsp, t.events.drop 1)) (stepWord 0x250500000FFD3020#64 State.reset) =
      some (some 0x0000#16, [.ioWrite 3#2 0x020#12 0x05#8, .response 0x0000#16]) := by decide

/-- V11 step 8: the debug path sees the store. -/
theorem test_dbgLinRead :
    see State.rsp (stepWord 0x300000000FFF8000#64 (startWith [(0xFFF8000, 0x4C#8)])) = some (some 0x004C#16) := by decide

/-- V46 (a) step 7: write protection holds for the debug path. -/
theorem test_dbgLinWrite_protected :
    see (fun t => (t.rsp, t.mem)) (stepWord 0x311300000002A000#64
      { startWith [(0x002A000, 0x11#8)] with romWp := true }) = some (some 0x0000#16, [(0x002A000, 0x11#8)]) := by decide

/-- V46 (a) step 1: `$E000` through the CPU's map, no page slot filled. -/
theorem test_dbgCpuRead :
    see (fun t => (t.rsp, t.pslots)) (stepWord 0x320000000000E000#64 (startWith [(0x002E000, 0x85#8)])) =
      some (some 0x0085#16, []) := by decide

/-- V46 (a) step 2: into the ROM image, not into the RAM beneath. -/
theorem test_dbgCpuWrite :
    see (fun t => (t.rsp, t.mem)) (stepWord 0x331100000000A000#64
      (startWith [(0x000A000, 0x01#8), (0x002A000, 0x02#8)])) =
      some (some 0x0000#16, [(0x000A000, 0x01#8), (0x002A000, 0x11#8)]) := by decide

/-- V21 step 4: code 5 to 6 invalidates page 0xE0 and leaves page 0xD0 resolved. -/
theorem test_portWrite :
    see (fun t => (t.portData, pslotAt 0xE0#8 t, (pslotAt 0xD0#8 t).isSome)) (stepWord 0x4006000000000001#64
      (fillPageSlot params 0xD0#8 (fillPageSlot params 0xE0#8
        { State.reset with portDdr := 0x07#8, portData := 0x05#8 }))) = some (0x06#8, none, true) := by decide

/-- V21 step 11: ROM-select of group GE already set; pages 0x80 to 0xCF go, page 0xE0 stays. -/
theorem test_romselWrite :
    see (fun t => (t.romvis, pslotAt 0x80#8 t, (pslotAt 0xE0#8 t).isSome)) (stepWord 0x410F000000000000#64
      (fillPageSlot params 0x80#8 (fillPageSlot params 0xE0#8 { State.reset with romvis := 0x8#4 }))) =
      some (0xF#4, none, true) := by decide

/-- V2 step 1. -/
theorem test_mapApply :
    see (fun t => (t.map, t.irqInhibit)) (stepWord 0x4200000000002123#64 State.reset) =
      some ({ mbLow := 0x00#8, offLow := 0x12300#20, mbHigh := 0x00#8, offHigh := 0#20, mask := 0x02#8 }, true) := by decide

/-- V30 row 5, from row 4's map: the megabyte of the low half persists, the high half's is selected. -/
theorem test_mapApply_megabytes :
    see State.map (stepWord 0x420000000F801000#64
      { State.reset with
        map := { mbLow := 0x80#8, offLow := 0xF8000#20, mbHigh := 0x00#8, offHigh := 0#20, mask := 0x00#8 } }) =
      some { mbLow := 0x80#8, offLow := 0x00000#20, mbHigh := 0x80#8, offHigh := 0xF8000#20, mask := 0x01#8 } := by decide

/-- V32 step 11: pages from 0x80 go, the low ones stay, the map stays. -/
theorem test_mapCommit :
    see (fun t => (t.irqInhibit, t.map, pslotAt 0x80#8 t, (pslotAt 0x7F#8 t).isSome)) (stepWord 0x4300000000000000#64
      (fillPageSlot params 0x7F#8 (fillPageSlot params 0x80#8 { State.reset with irqInhibit := true }))) =
      some (false, State.reset.map, none, true) := by decide

/-- V11 step 9: slots marked privilege-dependent go. -/
theorem test_privSet :
    see (fun t => (t.priv, t.sslots.flat, t.sslots.list.isSome)) (stepWord 0x4401000000000000#64
      (fillLinSlot params .list 0x0000400#28 (fillLinSlot params .flat 0xFFF8000#28 State.reset))) =
      some (true, none, true) := by decide

/-- V11 step 19: the layout changes, the `$D000` slot stays resolved. -/
theorem test_layoutSet :
    see (fun t => (t.ioLayout, (pslotAt 0xD0#8 t).isSome)) (stepWord 0x4503000000000000#64
      (fillPageSlot params 0xD0#8 State.reset)) = some (3#2, true) := by decide

/-- V40 step 5: the slot of kind `SHADOW_ROM` goes, the list slot stays. -/
theorem test_romwpSet :
    see (fun t => (t.romWp, t.sslots.src, t.sslots.list.isSome)) (stepWord 0x4601000000000000#64
      (fillLinSlot params .list 0x0000400#28 (fillLinSlot params .src 0x002A000#28 State.reset))) =
      some (true, none, true) := by decide

/-- V50 (a) step 4: the answer 2 silences the block. -/
theorem test_unmapped_silenced :
    see (fun t => (t.rsp, t.unmappedMode)) (stepWord 0x2501082007FFFFFF#64 { State.reset with choices := [2#2] }) =
      some (some 0x0100#16, .silent) := by decide

/-- V10: an illegal word gets `0x0200`. -/
theorem test_illegal_word :
    see (fun t => (t.rsp, t.run, t.mem)) (stepWord 0x2100000000000400#64 State.reset) =
      some (some 0x0200#16, .running, []) := by decide

/-- V31: translation, with the 20-bit wrap of row 4. -/
theorem test_mapTranslate :
    mapTranslate 0x00#8 0x12300#20 0x2000#16 = 0x0014300#28 ∧ mapTranslate 0x00#8 0xFE000#20 0x2000#16 = 0x0000000#28 ∧
    mapTranslate 0xFF#8 0xFFF00#20 0x0100#16 = 0xFF00000#28 ∧ mapTranslate 0xFF#8 0xD2000#20 0xC000#16 = 0xFFDE000#28 := by
  decide

/-- V12: pages at reset. -/
theorem test_resolve_at_reset :
    ([0x00#8, 0x01#8, 0x9F#8, 0xA0#8, 0xBF#8, 0xCF#8, 0xDF#8, 0xFF#8].map fun p =>
      ((resolveCpuPage params State.reset p).base, (resolveCpuPage params State.reset p).handler)) =
      [(0x0000000#28, .zp), (0x0000100#28, .ram), (0x0009F00#28, .ram), (0x002A000#28, .romRw), (0x002BF00#28, .romRw),
        (0x000CF00#28, .ram), (0xFFD0F00#28, .ioLegacy), (0x002FF00#28, .romRw)] := by decide

/-! ### Witnesses: the hypotheses of each statement are met -/

/-- The reset state with a request presented. -/
def presented (w : Request) : State := { State.reset with inbox := [.request w] }

/-- A block halted by an impossible address, with a request presented. -/
def haltedBlock : State := { presented 0x1000000000000000#64 with run := .halted .impossible 0x10000000#32 0x1234#16 }

theorem transparent_reset : transparent params State.reset := transparent_of_unresolved params rfl rfl

theorem pagesWf_reset : pagesWf State.reset := pagesWf_of_unresolved rfl

/-- The invariant of the block holds of a state with nothing resolved, the map of reset, and one byte in the store. -/
theorem blockInv_start {s : State} {c : Nat} {v : Byte} (hp : s.pslots = []) (hs : s.sslots = SpecialSlots.unresolved)
    (hm : s.map = State.reset.map) (hmem : s.mem = [(c, v)]) (hc : canonicalStorage params.regionTable c = true) :
    blockInv params s := by
  refine ⟨transparent_of_unresolved params hp hs, pagesWf_of_unresolved hp, fun k r h => ?_, ?_, ?_⟩
  · rw [sslotAt, hs, specialGet_unresolved] at h; cases h
  · rw [hm]; exact ⟨rfl, rfl⟩
  · unfold storeWf
    rw [hmem]
    exact ⟨by simp [Memory.wf, assocRising, assocRisingFrom], by simpa using hc⟩

theorem witness_IgnoredBitsAreIgnored :
    ∃ w v : Request, w ≠ v ∧ w &&& formatBits (reqOp w) = v &&& formatBits (reqOp w) :=
  ⟨0x10FF0000DEADA000#64, 0x100000000000A000#64, by decide, by decide⟩

theorem witness_OnlyTableOpcodesDecode :
    legalOpcode (reqOp 0x4601000000000000#64) = true ∧ legalOpcode (reqOp 0x4700000000000000#64) = false := by decide

theorem witness_StepRunsDecodedOperation :
    (presented 0x4601000000000000#64).inbox = [.request 0x4601000000000000#64] ∧
    (Instr.romwpSet true).wellFormed = true ∧ decode 0x4601000000000000#64 = .ok (.romwpSet true) := by decide

theorem witness_IdleStepHoldsState : State.reset.inbox = [] := rfl

theorem witness_IllegalRequestOnlyAnswers :
    (presented 0x4700000000000000#64).run = .running ∧
    (presented 0x4700000000000000#64).inbox = [.request 0x4700000000000000#64] ∧
    legalOpcode (reqOp 0x4700000000000000#64) = false := by decide

/-- A halted block with a request waiting; one with `reset` waiting, which it leaves by. -/
theorem witness_HaltedBlockIgnoresRequests :
    (haltedBlock.run = .halted .impossible 0x10000000#32 0x1234#16 ∧
      haltedBlock.inbox = [.request 0x1000000000000000#64]) ∧
    ({ haltedBlock with inbox := [.reset] } : State).inbox = [.reset] ∧
    ∃ t, step { haltedBlock with inbox := [.reset] } = .next t ∧ t.run ≠ haltedBlock.run :=
  ⟨by decide, rfl, _, rfl, by decide⟩

theorem witness_ResetInputRestoresResetState :
    ({ haltedBlock with inbox := [.reset] } : State).inbox = [.reset] := rfl

/-- Both outcomes of the self-check: the default table, and V6's table with a gap. -/
theorem witness_SelfCheckDecidesRunAtReset :
    ({ State.reset with inbox := [.reset] } : State).inbox = [.reset] ∧ selfCheck params.regionTable = true ∧
    selfCheck { params with
      regionTable := withRow 4 { start := 0x0060100, stop := 0x3FFFFFF, kind := .unmapped } }.regionTable = false := by
  decide

theorem witness_CheckedTableClaimsEachAddressOnce :
    selfCheck regionTable = true ∧ 0 < 2 ^ 28 ∧ 0xFFFFFFF < 2 ^ 28 ∧ 2 ^ 28 ≤ 0x10000000 := by decide

theorem witness_CheckedPagesLieInOneRegion :
    selfCheck regionTable = true ∧ 0x001F700 < 2 ^ 28 ∧ 0x001F700 % 256 = 0 ∧ 255 < 256 := by decide

/-- The first and last byte of the shared window and their neighbours. -/
theorem witness_CanonLandsOnCanonicalStorage :
    selfCheck regionTable = true ∧
    [0x001F7FF, 0x001F800, 0x001FFFF, 0x0020000].all (fun l => storageBacked (kindAt regionTable l)) = true ∧
    kindAt regionTable 0x001F7FF ≠ .sharedRam ∧ kindAt regionTable 0x001F800 = .sharedRam := by decide

theorem witness_StorePrimitivesReadBack :
    canon params.regionTable (0x001F7FF#28).toNat ≠ canon params.regionTable (0xFF80000#28).toNat := by decide

theorem witness_SharedWindowAliasesColourRam :
    selfCheck params.regionTable = true ∧ 0x7FF < 0x800 ∧
    (0x001FFFF#28).toNat = baseOfKind params.regionTable .sharedRam + 0x7FF ∧
    (0xFF807FF#28).toNat = baseOfKind params.regionTable .colourRam + 0x7FF ∧
    kindAt params.regionTable 0x001F7FF ≠ .sharedRam := by decide

theorem witness_PortCodeReadsInputsAsOne :
    2 < 3 ∧ (0x07#8).extractLsb' 0 3 = (0xFF#8).extractLsb' 0 3 ∧ (0x06#8).extractLsb' 0 3 = (0xF6#8).extractLsb' 0 3 := by
  decide

theorem witness_TranslationKeepsPagesWhole : (0x12300#20).extractLsb' 0 8 = 0#8 := by decide

/-- A changed zone (page 0xA0) and an unchanged one (page 0xC0) of the same write (V21 step 1). -/
theorem witness_PortWriteResult :
    State.reset.run = .running ∧ pagesWf State.reset ∧
    ∃ t, exec (.portWrite .ddr 0x07#8) State.reset = .next t ∧
      zoneChanged params State.reset t 0xA0#8 ∧ ¬ zoneChanged params State.reset t 0xC0#8 :=
  ⟨rfl, pagesWf_reset, _, rfl, by unfold zoneChanged; decide, by unfold zoneChanged; decide⟩

theorem witness_RomselWriteResult :
    State.reset.run = .running ∧ pagesWf State.reset ∧
    (∃ t, exec (.romselWrite 1#4) State.reset = .next t ∧
      zoneChanged params State.reset t 0x80#8 ∧ ¬ zoneChanged params State.reset t 0xD0#8) ∧
    ({ State.reset with priv := true } : State).priv = true :=
  ⟨rfl, pagesWf_reset, ⟨_, rfl, by unfold zoneChanged; decide, by unfold zoneChanged; decide⟩, rfl⟩

theorem witness_PrivSetResult :
    (fillLinSlot params .flat 0xFFF8000#28 State.reset).run = .running ∧
    pagesWf (fillLinSlot params .flat 0xFFF8000#28 State.reset) ∧
    true ≠ (fillLinSlot params .flat 0xFFF8000#28 State.reset).priv ∧
    ∃ r, sslotAt .flat (fillLinSlot params .flat 0xFFF8000#28 State.reset) = some r ∧ r.privDep = true :=
  ⟨by decide, pagesWf_congr (by decide) pagesWf_reset, by decide, _, rfl, by decide⟩

theorem witness_LayoutSetResult : State.reset.run = .running := rfl

theorem witness_RomwpSetResult :
    (fillLinSlot params .src 0x002A000#28 State.reset).run = .running ∧
    pagesWf (fillLinSlot params .src 0x002A000#28 State.reset) ∧
    true ≠ (fillLinSlot params .src 0x002A000#28 State.reset).romWp ∧
    ∃ r, sslotAt .src (fillLinSlot params .src 0x002A000#28 State.reset) = some r ∧ r.kind = .shadowRom :=
  ⟨by decide, pagesWf_congr (by decide) pagesWf_reset, by decide, _, rfl, by decide⟩

/-- Pages 0x3F and 0x40 lie on both sides of the block that becomes map-active; page 0x80 always goes (V32 step 1). -/
theorem witness_MapApplyResult :
    State.reset.run = .running ∧ pagesWf State.reset ∧ 0x80 ≤ (0x80#8).toNat ∧
    mapEntry State.reset.map (pageBlock 0x3F#8) ≠
      mapEntry (params.mapDecode 0x23#8 0x21#8 0x00#8 0x00#8 State.reset.map) (pageBlock 0x3F#8) ∧
    ¬ (0x80 ≤ (0x40#8).toNat ∨ mapEntry State.reset.map (pageBlock 0x40#8) ≠
      mapEntry (params.mapDecode 0x23#8 0x21#8 0x00#8 0x00#8 State.reset.map) (pageBlock 0x40#8)) :=
  ⟨rfl, pagesWf_reset, by decide, by decide, by decide⟩

theorem witness_MapCommitResult :
    State.reset.run = .running ∧ pagesWf State.reset ∧ 0x80 ≤ (0x80#8).toNat ∧ (0x7F#8).toNat < 0x80 :=
  ⟨rfl, pagesWf_reset, by decide, by decide⟩

theorem witness_OneCommitReleasesAllApplies :
    [(0x00#8, 0x00#8, 0x00#8, 0x00#8), (0x00#8, 0x10#8, 0x00#8, 0x00#8)] ≠ [] ∧ State.reset.run = .running := by decide

/-- Each register is changed by one of its writers. -/
theorem witness_RegistersChangeOnlyByTheirWriters :
    transparent params State.reset ∧
    (∃ t, exec (.romselWrite 1#4) State.reset = .next t ∧ t.romvis ≠ State.reset.romvis) ∧
    (∃ t, exec (.privSet true) State.reset = .next t ∧ t.priv ≠ State.reset.priv) ∧
    (∃ t, exec (.layoutSet 3#2) State.reset = .next t ∧ t.ioLayout ≠ State.reset.ioLayout) ∧
    (∃ t, exec (.romwpSet true) State.reset = .next t ∧ t.romWp ≠ State.reset.romWp) ∧
    (∃ t, exec (.mapApply 0x23#8 0x21#8 0#8 0#8) State.reset = .next t ∧ t.map ≠ State.reset.map ∧
      t.irqInhibit ≠ State.reset.irqInhibit) ∧
    (∃ t, exec (.cpuWrite 0x0000#16 0x07#8 0#16) State.reset = .next t ∧ t.portDdr ≠ State.reset.portDdr) ∧
    (∃ t, exec (.dbgCpuWrite 0x0001#16 0x07#8 0#16) State.reset = .next t ∧ t.portData ≠ State.reset.portData) ∧
    (∃ t, exec (.portWrite .ddr 0x07#8) State.reset = .next t ∧ t.portDdr ≠ State.reset.portDdr) ∧
    (∃ t, exec (.portWrite .data 0x07#8) State.reset = .next t ∧ t.portData ≠ State.reset.portData) :=
  ⟨transparent_reset, ⟨_, rfl, by decide⟩, ⟨_, rfl, by decide⟩, ⟨_, rfl, by decide⟩, ⟨_, rfl, by decide⟩,
    ⟨_, rfl, by decide, by decide⟩, ⟨_, rfl, by decide⟩, ⟨_, rfl, by decide⟩, ⟨_, rfl, by decide⟩, ⟨_, rfl, by decide⟩⟩

/-- What the statements about access operations share: the block runs, the cache is transparent, the access is there. -/
def canAccess (i : Instr) (s : State) (x : Access) : Prop :=
  s.run = .running ∧ transparent params s ∧ accessOf params i s = some x

/-- A linear access as the state sees it. -/
theorem canAccess_of_unresolved {i : Instr} {s : State} {x : Access} (hr : s.run = .running) (hp : s.pslots = [])
    (hs : s.sslots = SpecialSlots.unresolved) (hx : accessOf params i s = some x) : canAccess i s x :=
  ⟨hr, transparent_of_unresolved params hp hs, hx⟩

/-- One read for each way into the store: RAM, ROM with and without protection, privileged RAM seen by the privileged mode
and by the debug path, and the first byte of the zero page above the port. -/
theorem witness_ReadAnswersStoredByte :
    (∃ x, isAccessRead (.cpuRead 0x1234#16 0#16) = true ∧ canAccess (.cpuRead 0x1234#16 0#16) State.reset x ∧
      reachesStore x State.reset) ∧
    (∃ x, canAccess (.dmaSrcRead 0x002A010#32 0#16) State.reset x ∧ reachesStore x State.reset) ∧
    (∃ x, canAccess (.flatRead 0x002A010#32 0#16) { State.reset with romWp := true } x ∧
      reachesStore x { State.reset with romWp := true }) ∧
    (∃ x, canAccess (.dmaTgtRead 0xFFF8000#32 0#16) { State.reset with priv := true } x ∧
      reachesStore x { State.reset with priv := true }) ∧
    (∃ x, canAccess (.dbgLinRead 0xFFFBFFF#32 0#16) State.reset x ∧ reachesStore x State.reset) ∧
    (∃ x, canAccess (.dbgCpuRead 0x0002#16 0#16) State.reset x ∧ reachesStore x State.reset) ∧
    (∃ x, canAccess (.dmaListRead 0x0000000#32 0#16) State.reset x ∧ reachesStore x State.reset) :=
  ⟨⟨_, rfl, canAccess_of_unresolved rfl rfl rfl rfl, by unfold reachesStore; decide⟩,
    ⟨_, canAccess_of_unresolved rfl rfl rfl rfl, by unfold reachesStore; decide⟩,
    ⟨_, canAccess_of_unresolved rfl rfl rfl rfl, by unfold reachesStore; decide⟩,
    ⟨_, canAccess_of_unresolved rfl rfl rfl rfl, by unfold reachesStore; decide⟩,
    ⟨_, canAccess_of_unresolved rfl rfl rfl rfl, by unfold reachesStore; decide⟩,
    ⟨_, canAccess_of_unresolved rfl rfl rfl rfl, by unfold reachesStore; decide⟩,
    ⟨_, canAccess_of_unresolved rfl rfl rfl rfl, by unfold reachesStore; decide⟩⟩

theorem witness_ReadOfPortAnswersRegister :
    (∃ x, isAccessRead (.cpuRead 0x0000#16 0#16) = true ∧ canAccess (.cpuRead 0x0000#16 0#16) State.reset x ∧
      x.page.handler = .zp ∧ x.offset = 0#8) ∧
    (∃ x, isAccessRead (.dbgCpuRead 0x0001#16 0#16) = true ∧ canAccess (.dbgCpuRead 0x0001#16 0#16) State.reset x ∧
      x.page.handler = .zp ∧ x.offset = 1#8) :=
  ⟨⟨_, rfl, canAccess_of_unresolved rfl rfl rfl rfl, by decide, by decide⟩,
    ⟨_, rfl, canAccess_of_unresolved rfl rfl rfl rfl, by decide, by decide⟩⟩

theorem witness_ReadInNormalModeSeesDummy :
    ∃ x, isAccessRead (.flatRead 0xFFD6000#32 0#16) = true ∧ canAccess (.flatRead 0xFFD6000#32 0#16) State.reset x ∧
      seesDummy x State.reset :=
  ⟨_, rfl, canAccess_of_unresolved rfl rfl rfl rfl, by unfold seesDummy; decide⟩

/-- Both windows of the dispatcher (R139, R140), with a scripted answer and with none left. -/
theorem witness_ReadOfDeviceAsksDispatcher :
    (∃ x, isAccessRead (.dmaSrcRead 0xFFD3FFF#32 0#16) = true ∧
      canAccess (.dmaSrcRead 0xFFD3FFF#32 0#16) { State.reset with ioAnswers := [0xAB#8] } x ∧
      deviceOf params x { State.reset with ioAnswers := [0xAB#8] } = some (3#2, 0xFFF#12)) ∧
    (∃ x, isAccessRead (.cpuRead 0xD020#16 0#16) = true ∧
      canAccess (.cpuRead 0xD020#16 0#16) { State.reset with ioLayout := 1#2 } x ∧
      deviceOf params x { State.reset with ioLayout := 1#2 } = some (1#2, 0x020#12) ∧
      ({ State.reset with ioLayout := 1#2 } : State).ioAnswers = []) :=
  ⟨⟨_, rfl, canAccess_of_unresolved rfl rfl rfl rfl, by decide⟩,
    ⟨_, rfl, canAccess_of_unresolved rfl rfl rfl rfl, by decide, rfl⟩⟩

/-- One write for each storing handler, at the first byte of colour RAM for the shared window's alias. -/
theorem witness_WriteStoresByte :
    (∃ x, isAccessWrite (.dmaTgtWrite 0xFF80000#32 0x09#8 0#16) = true ∧
      canAccess (.dmaTgtWrite 0xFF80000#32 0x09#8 0#16) State.reset x ∧ mayStore x State.reset) ∧
    (∃ x, canAccess (.dmaSrcWrite 0x002A011#32 0x55#8 0#16) State.reset x ∧ mayStore x State.reset) ∧
    (∃ x, canAccess (.dbgLinWrite 0xFFF8000#32 0x77#8 0#16) State.reset x ∧ mayStore x State.reset) ∧
    (∃ x, canAccess (.flatWrite 0xFFF8000#32 0x77#8 0#16) { State.reset with priv := true } x ∧
      mayStore x { State.reset with priv := true }) ∧
    (∃ x, canAccess (.cpuWrite 0x0002#16 0xAA#8 0#16) State.reset x ∧ mayStore x State.reset) ∧
    (∃ x, canAccess (.dbgCpuWrite 0xA000#16 0x11#8 0#16) State.reset x ∧ mayStore x State.reset) ∧
    canon params.regionTable (0xFF80001#28).toNat ≠ canon params.regionTable (0xFF80000#28).toNat :=
  ⟨⟨_, rfl, canAccess_of_unresolved rfl rfl rfl rfl, by unfold mayStore reachesStore; decide⟩,
    ⟨_, canAccess_of_unresolved rfl rfl rfl rfl, by unfold mayStore reachesStore; decide⟩,
    ⟨_, canAccess_of_unresolved rfl rfl rfl rfl, by unfold mayStore reachesStore; decide⟩,
    ⟨_, canAccess_of_unresolved rfl rfl rfl rfl, by unfold mayStore reachesStore; decide⟩,
    ⟨_, canAccess_of_unresolved rfl rfl rfl rfl, by unfold mayStore reachesStore; decide⟩,
    ⟨_, canAccess_of_unresolved rfl rfl rfl rfl, by unfold mayStore reachesStore; decide⟩, by decide⟩

theorem witness_ForbiddenWriteIsDropped :
    (∃ x, isAccessWrite (.dbgLinWrite 0x0020000#32 0x13#8 0#16) = true ∧
      canAccess (.dbgLinWrite 0x0020000#32 0x13#8 0#16) { State.reset with romWp := true } x ∧ x.page.handler = .romRo) ∧
    (∃ x, isAccessWrite (.flatWrite 0xFFFBFFF#32 0x22#8 0#16) = true ∧
      canAccess (.flatWrite 0xFFFBFFF#32 0x22#8 0#16) State.reset x ∧ seesDummy x State.reset) :=
  ⟨⟨_, rfl, canAccess_of_unresolved rfl rfl rfl rfl, by decide⟩,
    ⟨_, rfl, canAccess_of_unresolved rfl rfl rfl rfl, by unfold seesDummy; decide⟩⟩

theorem witness_WriteOfPortSetsRegister :
    pagesWf State.reset ∧
    (∃ x, isAccessWrite (.cpuWrite 0x0000#16 0x07#8 0#16) = true ∧
      canAccess (.cpuWrite 0x0000#16 0x07#8 0#16) State.reset x ∧ x.page.handler = .zp ∧ x.offset = 0#8 ∧
      ∃ t, exec (.cpuWrite 0x0000#16 0x07#8 0#16) State.reset = .next t ∧
        zoneChanged params State.reset t 0xA0#8 ∧ ¬ zoneChanged params State.reset t 0xC0#8) ∧
    (∃ x, isAccessWrite (.dbgCpuWrite 0x0001#16 0x07#8 0#16) = true ∧
      canAccess (.dbgCpuWrite 0x0001#16 0x07#8 0#16) State.reset x ∧ x.page.handler = .zp ∧ x.offset = 1#8) :=
  ⟨pagesWf_reset,
    ⟨_, rfl, canAccess_of_unresolved rfl rfl rfl rfl, by decide, by decide, _, rfl, by unfold zoneChanged; decide,
      by unfold zoneChanged; decide⟩,
    ⟨_, rfl, canAccess_of_unresolved rfl rfl rfl rfl, by decide, by decide⟩⟩

theorem witness_ZeroPageWriteIsPortWrite :
    State.reset.run = .running ∧ transparent params State.reset ∧ mapEntry State.reset.map 0#3 = none :=
  ⟨rfl, transparent_reset, by decide⟩

theorem witness_WriteOfDeviceCallsDispatcher :
    (∃ x, isAccessWrite (.dmaTgtWrite 0xFFD0000#32 0x05#8 0#16) = true ∧
      canAccess (.dmaTgtWrite 0xFFD0000#32 0x05#8 0#16) State.reset x ∧
      deviceOf params x State.reset = some (0#2, 0x000#12)) ∧
    (∃ x, isAccessWrite (.cpuWrite 0xDFFF#16 0x05#8 0#16) = true ∧
      canAccess (.cpuWrite 0xDFFF#16 0x05#8 0#16) { State.reset with ioLayout := 3#2 } x ∧
      deviceOf params x { State.reset with ioLayout := 3#2 } = some (3#2, 0xFFF#12)) :=
  ⟨⟨_, rfl, canAccess_of_unresolved rfl rfl rfl rfl, by decide⟩,
    ⟨_, rfl, canAccess_of_unresolved rfl rfl rfl rfl, by decide⟩⟩

/-- Unmapped addresses at the ends of a region and cartridge space, in both modes of the policy, for each choice. -/
theorem witness_UnmappedAccessFollowsChoice :
    (∃ x, isAccessRead (.flatRead 0x0060000#32 0x0810#16) = true ∧
      canAccess (.flatRead 0x0060000#32 0x0810#16) { State.reset with unmappedMode := .silent } x ∧
      x.page.handler = .unmapped) ∧
    ∀ c : Choice, ∃ x, isAccessWrite (.dmaTgtWrite 0x7FFFFFF#32 0x01#8 0x0820#16) = true ∧
      canAccess (.dmaTgtWrite 0x7FFFFFF#32 0x01#8 0x0820#16) { State.reset with choices := [c] } x ∧
      x.page.handler = .unmapped ∧ ({ State.reset with choices := [c] } : State).choices = [c] ∧
      ({ State.reset with choices := [c] } : State).unmappedMode = .ask :=
  ⟨⟨_, rfl, canAccess_of_unresolved rfl rfl rfl rfl, by decide⟩,
    fun _ => ⟨_, rfl, canAccess_of_unresolved rfl rfl rfl rfl, rfl, rfl, rfl⟩⟩

/-- R282's example, and an operation with a 16-bit address. -/
theorem witness_ImpossibleAddressHalts :
    (linearOperand (.dmaSrcRead 0x10000000#32 0x1234#16) = some (0x10000000#32, .src, 0x1234#16) ∧
      State.reset.run = .running ∧ 2 ^ 28 ≤ (0x10000000#32).toNat) ∧
    linearOperand (.cpuRead 0xFFFF#16 0#16) = none ∧ ∃ t, exec (.cpuRead 0xFFFF#16 0#16) State.reset = .next t :=
  ⟨by decide, rfl, _, rfl⟩

theorem witness_LinearAccessKeepsOtherSlots :
    transparent params State.reset ∧
    linearOperand (.dmaListRead 0x0000400#32 0#16) = some (0x0000400#32, .list, 0#16) ∧
    (∃ t, exec (.dmaListRead 0x0000400#32 0#16) State.reset = .next t) ∧ SpecialSlot.src ≠ .list :=
  ⟨transparent_reset, rfl, ⟨_, rfl⟩, by decide⟩

theorem witness_OnlyAccessWritesChangeStore :
    isAccessWrite (.cpuRead 0x1234#16 0#16) = false ∧ ∃ t, exec (.cpuRead 0x1234#16 0#16) State.reset = .next t :=
  ⟨rfl, _, rfl⟩

/-- A write into the shared window and a read of its alias in colour RAM (V4). -/
theorem witness_WrittenByteIsSeenOnEveryPath :
    ∃ x y, isAccessWrite (.flatWrite 0x001F810#32 0x07#8 0#16) = true ∧ isAccessRead (.dmaSrcRead 0xFF80010#32 0#16) = true ∧
      canAccess (.flatWrite 0x001F810#32 0x07#8 0#16) State.reset x ∧
      canAccess (.dmaSrcRead 0xFF80010#32 0#16) State.reset y ∧ mayStore x State.reset ∧ reachesStore y State.reset ∧
      canon params.regionTable y.target.toNat = canon params.regionTable x.target.toNat :=
  ⟨_, _, rfl, rfl, canAccess_of_unresolved rfl rfl rfl rfl, canAccess_of_unresolved rfl rfl rfl rfl,
    by unfold mayStore reachesStore; decide, by unfold reachesStore; decide, by decide⟩

/-- One address for each of the three clauses; the port and the store both fall under the first. -/
theorem witness_CpuRoundTrip :
    State.reset.run = .running ∧ transparent params State.reset ∧ pagesWf State.reset ∧
    mayStore (cpuAccess params 0x1234#16 0xA5#8 false 0#16 State.reset) State.reset ∧
    (cpuAccess params 0x0001#16 0xA5#8 false 0#16 State.reset).page.handler = .zp ∧
    (cpuAccess params 0xE000#16 0xFF#8 false 0#16 { State.reset with romWp := true }).page.handler = .romRo ∧
    seesDummy (cpuAccess params 0x8001#16 0x66#8 false 0#16
        { State.reset with
          map := { mbLow := 0x00#8, offLow := 0#20, mbHigh := 0xFF#8, offHigh := 0xF0000#20, mask := 0x10#8 } })
      { State.reset with
        map := { mbLow := 0x00#8, offLow := 0#20, mbHigh := 0xFF#8, offHigh := 0xF0000#20, mask := 0x10#8 } } :=
  ⟨rfl, transparent_reset, pagesWf_reset, by unfold mayStore reachesStore; decide, by decide, by decide,
    by unfold seesDummy; decide⟩

theorem witness_DebugOperationMatchesCounterpart :
    debugCounterpart (.dbgCpuRead 0xE000#16 0#16) = some (.cpuRead 0xE000#16 0#16) ∧ transparent params State.reset ∧
    (∀ x, accessOf params (.dbgCpuRead 0xE000#16 0#16) State.reset = some x → x.page.handler ≠ .priv) ∧
    ({ State.reset with priv := true } : State).priv = true :=
  ⟨rfl, transparent_reset, by intro x h; obtain rfl := Option.some.inj h; decide, rfl⟩

/-- From the ROM image into the shared window (P2). -/
theorem witness_CopyByteCopies :
    State.reset.run = .running ∧ transparent params State.reset ∧
    ∃ x y, linearAccess params 0x002D000#32 0x00#8 false 0x0810#16 State.reset = some x ∧
      linearAccess params 0x001F800#32 0x00#8 false 0x0810#16 State.reset = some y ∧ reachesStore x State.reset ∧
      mayStore y State.reset :=
  ⟨rfl, transparent_reset, _, _, rfl, rfl, by unfold reachesStore; decide, by unfold mayStore reachesStore; decide⟩

/-- The state of P1 after the image is protected: an attempt to write it is made. -/
theorem witness_ProtectedRomNeverChanges :
    blockInv params { startWith [(0x002E000, 0x78#8)] with romWp := true } ∧
    ({ startWith [(0x002E000, 0x78#8)] with romWp := true } : State).romWp = true ∧
    (∃ t, exec (.cpuWrite 0xE000#16 0xFF#8 0xE001#16) { startWith [(0x002E000, 0x78#8)] with romWp := true } = .next t) ∧
    kindAt params.regionTable (0x002E000#28).toNat = .shadowRom :=
  ⟨blockInv_start rfl rfl rfl rfl (by decide), rfl, ⟨_, rfl⟩, by decide⟩

theorem witness_NormalModeCannotChangePrivateMemory :
    blockInv params (startWith [(0xFFF8000, 0x4C#8)]) ∧ (startWith [(0xFFF8000, 0x4C#8)]).priv = false ∧
    isDebug (.flatWrite 0xFFF8000#32 0x22#8 0#16) = false ∧
    (∃ t, exec (.flatWrite 0xFFF8000#32 0x22#8 0#16) (startWith [(0xFFF8000, 0x4C#8)]) = .next t) ∧
    isPrivate (kindAt params.regionTable (0xFFF8000#28).toNat) = true :=
  ⟨blockInv_start rfl rfl rfl rfl (by decide), rfl, rfl, ⟨_, rfl⟩, by decide⟩

/-- No public address reaches the first byte of privileged RAM. -/
theorem canon_public_ne (l : LinAddr) (h : isPrivate (kindAt params.regionTable l.toNat) = false) :
    canon params.regionTable l.toNat ≠ 0xFFF8000 := by
  intro hc
  have hw : baseOfKind params.regionTable .sharedRam = 0x001F800 := by decide
  have hb : baseOfKind params.regionTable .colourRam = 0xFF80000 := by decide
  unfold canon at hc
  split at hc
  · next hk =>
    rw [hw, hb] at hc
    rw [show l.toNat = 0x97800 by omega] at hk
    revert hk; decide
  · rw [hc] at h; revert h; decide

/-- Two states with different secrets in privileged RAM. -/
theorem witness_NormalModeCannotSeePrivateMemory :
    blockInv params (startWith [(0xFFF8000, 0x4C#8)]) ∧ (startWith [(0xFFF8000, 0x4C#8)]).priv = false ∧
    isDebug (.flatRead 0xFFF8000#32 0#16) = false ∧
    startWith [(0xFFF8000, 0x22#8)] =
      { startWith [(0xFFF8000, 0x4C#8)] with mem := (startWith [(0xFFF8000, 0x22#8)]).mem } ∧
    (∀ l : LinAddr, isPrivate (kindAt params.regionTable l.toNat) = false →
      memRead params l (startWith [(0xFFF8000, 0x22#8)]) = memRead params l (startWith [(0xFFF8000, 0x4C#8)])) ∧
    (∃ t, exec (.flatRead 0xFFF8000#32 0#16) (startWith [(0xFFF8000, 0x4C#8)]) = .next t) ∧
    ∃ v, exec (.flatRead 0xFFF8000#32 0#16) (startWith [(0xFFF8000, 0x22#8)]) = .next v := by
  refine ⟨blockInv_start rfl rfl rfl rfl (by decide), rfl, rfl, rfl, fun l h => ?_, ⟨_, rfl⟩, ⟨_, rfl⟩⟩
  have hc := (canon_public_ne l h).symm
  simp [memRead, storedByte, startWith, assocGet, hc]

theorem witness_HaltsHaveTwoCauses :
    transparent params State.reset ∧ transparent params { State.reset with choices := [3#2] } ∧
    (∃ t, exec (.flatRead 0xFFFFFFFF#32 0#16) State.reset = .next t ∧ t.run ≠ State.reset.run) ∧
    ∃ t, exec (.flatWrite 0x0060000#32 0x55#8 0x0900#16) { State.reset with choices := [3#2] } = .next t ∧
      t.run ≠ ({ State.reset with choices := [3#2] } : State).run :=
  ⟨transparent_reset, transparent_of_unresolved _ rfl rfl, ⟨_, rfl, by decide⟩, ⟨_, rfl, by decide⟩⟩

theorem witness_SilenceLastsUntilReset :
    (∃ t, exec (.flatRead 0x8800000#32 0#16) { State.reset with unmappedMode := .silent } = .next t) ∧
    ∃ t, exec (.dmaTgtWrite 0x7FFFFFF#32 0x01#8 0x0820#16) { State.reset with choices := [2#2] } = .next t ∧
      t.unmappedMode ≠ ({ State.reset with choices := [2#2] } : State).unmappedMode :=
  ⟨⟨_, rfl⟩, ⟨_, rfl, by decide⟩⟩

/-- A state with a resolved page slot and a resolved special slot, about to take a configuration operation. -/
theorem witness_TransparencyIsKept :
    pagesWf (slotFilled params (.cpuRead 0xE000#16 0#16) (presented 0x4601000000000000#64)) ∧
    transparent params (slotFilled params (.cpuRead 0xE000#16 0#16) (presented 0x4601000000000000#64)) ∧
    ∃ t, stepAt params (slotFilled params (.cpuRead 0xE000#16 0#16) (presented 0x4601000000000000#64)) = .next t :=
  ⟨pagesWf_slotFilled _ _ (pagesWf_of_unresolved rfl), transparent_slotFilled _ (transparent_of_unresolved _ rfl rfl),
    _, rfl⟩

theorem witness_CachesAreInvisible :
    transparent params (slotFilled params (.cpuRead 0xE000#16 0#16) (presented 0x100000000000E000#64)) ∧
    transparent params (presented 0x100000000000E000#64) ∧
    dropCache (slotFilled params (.cpuRead 0xE000#16 0#16) (presented 0x100000000000E000#64)) =
      dropCache (presented 0x100000000000E000#64) :=
  ⟨transparent_slotFilled _ (transparent_of_unresolved _ rfl rfl), transparent_of_unresolved _ rfl rfl, rfl⟩

theorem witness_BlockInvariantIsKept :
    blockInv params { startWith [(0x002A000, 0x94#8)] with inbox := [.request 0x139500000002A000#64] } ∧
    ∃ t, step { startWith [(0x002A000, 0x94#8)] with inbox := [.request 0x139500000002A000#64] } = .next t :=
  ⟨blockInv_start rfl rfl rfl rfl (by decide), _, rfl⟩

end Sys2Proof.Tests
end

section
/-! The region map of a table that passes its self-check (R63, R64), the shared window's two aliases, and the store through
them (R70 to R72). -/

namespace Sys2Proof.MemoryProofs

open Sys2Proof Sys2Proof.Machine

/-! ### The one entry that claims an address -/

theorem find?_of_filter_eq_singleton {α : Type} {p : α → Bool} {xs : List α} {x : α} (h : xs.filter p = [x]) :
    xs.find? p = some x := by
  rw [← List.head?_filter, h, List.head?_cons]

theorem tableEndsAtTop_iff {table : List Region} :
    tableEndsAtTop table = true ↔ ∃ r ∈ table.getLast?, r.stop = 0xFFFFFFF := by
  induction table with
  | nil => simp [tableEndsAtTop]
  | cons a rest ih =>
    cases rest with
    | nil => simp [tableEndsAtTop]
    | cons b rest => rw [List.getLast?_cons_cons]; exact ih

theorem tableStartsAtZero_iff {table : List Region} : tableStartsAtZero table = true ↔ ∃ r ∈ table.head?, r.start = 0 := by
  cases table <;> simp [tableStartsAtZero]

/-- R63: the entries of a checked table claim each address of the linear space once, and no address outside it. -/
theorem selfCheck_claims {table : List Region} (h : selfCheck table = true) (l : Nat) :
    (l < 2 ^ 28 → ∃ r ∈ table, table.filter (fun r => regionClaims r l) = [r]) ∧
    (2 ^ 28 ≤ l → table.filter (fun r => regionClaims r l) = []) := by
  obtain ⟨_, hstart, hend, hordered, hcontiguous, _⟩ := selfCheck_parts h
  obtain ⟨first, hfirst, hzero⟩ := tableStartsAtZero_iff.1 hstart
  obtain ⟨last, hlast, htop⟩ := tableEndsAtTop_iff.1 hend
  obtain ⟨hinside, houtside, -⟩ := contiguous_claims table 0 0xFFFFFFF
    (fun r hr => Option.mem_unique hr hfirst ▸ hzero) (List.ne_nil_of_mem (List.mem_of_mem_head? hfirst))
    (fun r hr => Option.mem_unique hr hlast ▸ htop) hordered hcontiguous l
  exact ⟨fun hl => hinside (by omega), fun hl => houtside (by omega)⟩

/-- In a checked table, an entry that claims an address is the address's region (R66). -/
theorem regionOf_of_claims {table : List Region} (h : selfCheck table = true) {r : Region} (hr : r ∈ table) {l : Nat}
    (hclaims : regionClaims r l = true) : regionOf table l = r := by
  obtain ⟨hinside, houtside⟩ := selfCheck_claims h l
  have hmem : r ∈ table.filter fun e => regionClaims e l := List.mem_filter.2 ⟨hr, hclaims⟩
  have hl : l < 2 ^ 28 := by
    by_contra hge
    simp [houtside (by omega)] at hmem
  obtain ⟨owner, -, howner⟩ := hinside hl
  obtain rfl : r = owner := by simpa [howner] using hmem
  rw [regionOf, find?_of_filter_eq_singleton howner, Option.getD_some]

/-! ### The one entry of a kind -/

theorem baseOfKind_of_entriesOfKind {table : List Region} {k : RegionKind} {r : Region} (h : entriesOfKind table k = [r]) :
    baseOfKind table k = r.start := by
  rw [baseOfKind, find?_of_filter_eq_singleton h, Option.map_some, Option.getD_some]

/-- In a checked table, the bytes of the one entry of a kind, counted from the kind's base, are of that kind. -/
theorem kindAt_base_add {table : List Region} (h : selfCheck table = true) {k : RegionKind} {r : Region}
    (hr : entriesOfKind table k = [r]) {i : Nat} (hi : i < regionSize r) : kindAt table (baseOfKind table k + i) = k := by
  have hlisted : r ∈ entriesOfKind table k := hr ▸ List.mem_singleton_self r
  obtain ⟨hmem, hkind⟩ := List.mem_filter.1 hlisted
  have hclaims : regionClaims r (baseOfKind table k + i) = true := by
    rw [baseOfKind_of_entriesOfKind hr]
    simp only [regionSize] at hi
    simp only [regionClaims, Bool.and_eq_true, decide_eq_true_eq]
    omega
  rw [kindAt, regionOf_of_claims h hmem hclaims]
  exact of_decide_eq_true hkind

/-- R64(b): the shared window is one entry of 0x800 bytes. -/
theorem exists_sharedWindow {table : List Region} (h : tableOneShared table = true) :
    ∃ r, entriesOfKind table .sharedRam = [r] ∧ regionSize r = 0x800 := by
  unfold tableOneShared at h
  split at h
  · next r hr => exact ⟨r, hr, of_decide_eq_true h⟩
  · cases h

/-- R64(c): colour RAM is one entry of at least 0x800 bytes. -/
theorem exists_colourRam {table : List Region} (h : tableOneColour table = true) :
    ∃ r, entriesOfKind table .colourRam = [r] ∧ 0x800 ≤ regionSize r := by
  unfold tableOneColour at h
  split at h
  · next r hr => exact ⟨r, hr, of_decide_eq_true h⟩
  · cases h

theorem kindAt_sharedWindow {table : List Region} (h : selfCheck table = true) {i : Nat} (hi : i < 0x800) :
    kindAt table (baseOfKind table .sharedRam + i) = .sharedRam := by
  obtain ⟨_, _, _, _, _, _, hshared, _⟩ := selfCheck_parts h
  obtain ⟨r, hr, hsize⟩ := exists_sharedWindow hshared
  exact kindAt_base_add h hr (by omega)

theorem kindAt_colourRam {table : List Region} (h : selfCheck table = true) {i : Nat} (hi : i < 0x800) :
    kindAt table (baseOfKind table .colourRam + i) = .colourRam := by
  obtain ⟨_, _, _, _, _, _, _, hcolour, _⟩ := selfCheck_parts h
  obtain ⟨r, hr, hsize⟩ := exists_colourRam hcolour
  exact kindAt_base_add h hr (by omega)

/-! ### The fold of the shared window (R70) -/

theorem canon_of_ne_sharedRam {table : List Region} {l : Nat} (h : kindAt table l ≠ .sharedRam) : canon table l = l :=
  if_neg h

theorem canon_of_sharedRam {table : List Region} {l : Nat} (h : kindAt table l = .sharedRam) :
    canon table l = baseOfKind table .colourRam + (l - baseOfKind table .sharedRam) :=
  if_pos h

theorem canon_sharedWindow {table : List Region} (h : selfCheck table = true) {i : Nat} (hi : i < 0x800) :
    canon table (baseOfKind table .sharedRam + i) = baseOfKind table .colourRam + i := by
  rw [canon_of_sharedRam (kindAt_sharedWindow h hi), Nat.add_sub_cancel_left]

theorem canon_colourRam {table : List Region} (h : selfCheck table = true) {i : Nat} (hi : i < 0x800) :
    canon table (baseOfKind table .colourRam + i) = baseOfKind table .colourRam + i :=
  canon_of_ne_sharedRam (by simp [kindAt_colourRam h hi])

/-! ### The store primitives (R71, R72) -/

theorem memRead_memWrite (P : Params) (j l : LinAddr) (v : Byte) (s : State) :
    memRead P j (memWrite P l v s) =
      if canon P.regionTable j.toNat = canon P.regionTable l.toNat then v else memRead P j s := by
  rw [memRead, memWrite_mem, storedByte_put, memRead]

/-- A write through an address is read through every address folded onto the same byte (R70). -/
theorem memRead_memWrite_of_canon_eq {P : Params} {j l : LinAddr}
    (h : canon P.regionTable j.toNat = canon P.regionTable l.toNat) (v : Byte) (s : State) :
    memRead P j (memWrite P l v s) = v := by
  rw [memRead_memWrite, if_pos h]

/-- Settles O16: the window's byte is folded onto colour RAM's, so the two addresses have one canonical address and every
read after a write through either follows by `memRead_memWrite_of_canon_eq`. -/
theorem sharedWindowAliasesColourRam : Obligations.SharedWindowAliasesColourRam := by
  intro P h i v s hi w c hw hc
  have hcanonW : canon P.regionTable w.toNat = c.toNat := by rw [hw, hc, canon_sharedWindow h hi]
  have hcanonC : canon P.regionTable c.toNat = c.toNat := by rw [hc, canon_colourRam h hi]
  have hsame : canon P.regionTable w.toNat = canon P.regionTable c.toNat := hcanonW.trans hcanonC.symm
  exact ⟨hcanonW, hcanonC, fun _ => canon_of_ne_sharedRam,
    memRead_memWrite_of_canon_eq rfl v s, memRead_memWrite_of_canon_eq hsame.symm v s,
    memRead_memWrite_of_canon_eq hsame v s, memRead_memWrite_of_canon_eq rfl v s⟩

end Sys2Proof.MemoryProofs
end

section
/-! What the decoder reads of a request (R101, R103, R110 to R114), and the step that takes an illegal one (R115). -/

namespace Sys2Proof.EncodingProofs

open Sys2Proof Sys2Proof.Machine

/-! ### The look into the opcode table (R103) -/

theorem legalOpcode_opcode (i : Instr) : legalOpcode i.opcode = true := by
  cases i <;> rfl

/-- R103: what decoding can answer. An opcode that misses every row of the decoder is not in the list of legal ones. -/
theorem decode_cases (w : Request) :
    (∃ i, decode w = .ok i ∧ i.opcode = reqOp w) ∨
    (legalOpcode (reqOp w) = false ∧ decode w = .error (.illegalOp (reqOp w))) := by
  unfold decode
  split
  case h_21 =>
    refine .inr ⟨?_, rfl⟩
    simp_all [legalOpcode, legalOpcodes, ← BitVec.toNat_inj]
  all_goals
    next hop => exact .inl ⟨_, rfl, BitVec.eq_of_toNat_eq hop.symm⟩

theorem decode_of_legal {w : Request} (h : legalOpcode (reqOp w) = true) :
    ∃ i, decode w = .ok i ∧ i.opcode = reqOp w := by
  obtain hok | ⟨hillegal, -⟩ := decode_cases w
  · exact hok
  · simp [hillegal] at h

theorem decode_of_illegal {w : Request} (h : legalOpcode (reqOp w) = false) :
    decode w = .error (.illegalOp (reqOp w)) := by
  obtain ⟨i, -, hop⟩ | ⟨-, herror⟩ := decode_cases w
  · simp [← hop, legalOpcode_opcode] at h
  · exact herror

/-- Settles O3: the table's half and the other opcodes' half of `decode_cases`. -/
theorem onlyTableOpcodesDecode : Obligations.OnlyTableOpcodesDecode :=
  fun _ => ⟨decode_of_legal, decode_of_illegal⟩

/-! ### The step that takes an illegal request (R115) -/

theorem runRequest_of_illegal (meaning : Instr → State → Result) {w : Request} (h : legalOpcode (reqOp w) = false)
    (s : State) : runRequest meaning w s = illegalOperation s := by
  unfold runRequest
  rw [decode_of_illegal h]

theorem illegalOperation_of_running {s : State} (h : s.run = .running) :
    illegalOperation s = .next (respond .illegalOp 0x00#8 s) :=
  operate_running h

theorem respond_illegalOp (s : State) :
    respond .illegalOp 0x00#8 s =
      { s with rsp := some 0x0200#16, events := s.events ++ [.response 0x0200#16] } := rfl

/-- Settles O7: the request is taken and recorded, and the illegal operation is a response alone. -/
theorem illegalRequestOnlyAnswers : Obligations.IllegalRequestOnlyAnswers := by
  intro s w rest hrun hinbox hillegal
  calc step s
    _ = runRequest exec w (takeRequest w rest s) := nextInput_request hinbox
    _ = illegalOperation (takeRequest w rest s) := runRequest_of_illegal exec hillegal _
    _ = .next (respond .illegalOp 0x00#8 (takeRequest w rest s)) := illegalOperation_of_running hrun
    _ = _ := by simp [respond_illegalOp, takeRequest]

/-! ### Fields under a mask

A mask that has every bit of a field leaves what is read from the field as it is. -/

theorem extractLsb'_and_of_allOnes {k a n : Nat} {m : BitVec k} (h : m.extractLsb' a n = BitVec.allOnes n)
    (x : BitVec k) : (x &&& m).extractLsb' a n = x.extractLsb' a n := by
  rw [BitVec.extractLsb'_and, h, BitVec.and_allOnes]

theorem reqData_and (w m : Request) : reqData (w &&& m) = reqData w &&& reqData m := BitVec.extractLsb'_and

theorem reqArg_and (w m : Request) : reqArg (w &&& m) = reqArg w &&& reqArg m := BitVec.extractLsb'_and

section
variable {m : Request}

theorem reqOp_masked (h : reqOp m = 0xFF#8) (w : Request) : reqOp (w &&& m) = reqOp w :=
  extractLsb'_and_of_allOnes h w

theorem reqData_masked (h : reqData m = 0xFF#8) (w : Request) : reqData (w &&& m) = reqData w :=
  extractLsb'_and_of_allOnes h w

theorem reqPc_masked (h : reqPc m = 0xFFFF#16) (w : Request) : reqPc (w &&& m) = reqPc w :=
  extractLsb'_and_of_allOnes h w

theorem reqArg_masked (h : reqArg m = 0xFFFFFFFF#32) (w : Request) : reqArg (w &&& m) = reqArg w :=
  extractLsb'_and_of_allOnes h w

theorem reqAddr16_masked (h : reqAddr16 m = 0xFFFF#16) (w : Request) : reqAddr16 (w &&& m) = reqAddr16 w := by
  unfold reqAddr16
  rw [reqArg_and]
  exact extractLsb'_and_of_allOnes h (reqArg w)

theorem reqSel_masked (h : (reqArg m).getLsbD 0 = true) (w : Request) : reqSel (w &&& m) = reqSel w := by
  unfold reqSel
  rw [reqArg_and, BitVec.getLsbD_and, h, Bool.and_true]

theorem reqArgByte_masked (h : reqArg m = 0xFFFFFFFF#32) (k : Nat) (w : Request) :
    reqArgByte k (w &&& m) = reqArgByte k w := by
  unfold reqArgByte
  rw [reqArg_masked h]

/-- The low bits of `req.data` (R112). -/
theorem reqData_low_masked {n : Nat} (h : (reqData m).extractLsb' 0 n = BitVec.allOnes n) (w : Request) :
    (reqData (w &&& m)).extractLsb' 0 n = (reqData w).extractLsb' 0 n := by
  rw [reqData_and, extractLsb'_and_of_allOnes h]

theorem reqData_bit_masked (h : (reqData m).getLsbD 0 = true) (w : Request) :
    (reqData (w &&& m)).getLsbD 0 = (reqData w).getLsbD 0 := by
  rw [reqData_and, BitVec.getLsbD_and, h, Bool.and_true]

end

/-! ### The ignored bits (R101) -/

theorem reqOp_formatBits (op : Byte) : reqOp (formatBits op) = 0xFF#8 := by
  unfold formatBits
  split <;> rfl

theorem reqOp_and_formatBits (op : Byte) (w : Request) : reqOp (w &&& formatBits op) = reqOp w :=
  reqOp_masked (reqOp_formatBits op) w

/-- R101: clearing the bits that the format ignores does not change what is decoded. The cases are the formats, each
with the fields it reads. -/
theorem decode_and_formatBits (w : Request) : decode (w &&& formatBits (reqOp w)) = decode w := by
  unfold decode
  rw [reqOp_and_formatBits]
  split
  -- format A (R110), the reads and the writes
  case h_1 hop | h_12 hop => simp (disch := decide) only [formatBits, hop, reqAddr16_masked, reqPc_masked]
  case h_2 hop | h_13 hop =>
    simp (disch := decide) only [formatBits, hop, reqAddr16_masked, reqData_masked, reqPc_masked]
  -- format L (R111), the reads and the writes
  case h_3 hop | h_5 hop | h_6 hop | h_8 hop | h_10 hop =>
    simp (disch := decide) only [formatBits, hop, reqArg_masked, reqPc_masked]
  case h_4 hop | h_7 hop | h_9 hop | h_11 hop =>
    simp (disch := decide) only [formatBits, hop, reqArg_masked, reqData_masked, reqPc_masked]
  -- format C (R112): PORT_WRITE; ROMSEL_WRITE and LAYOUT_SET; PRIV_SET and ROMWP_SET
  case h_14 hop => simp (disch := decide) only [formatBits, hop, reqSel_masked, reqData_masked]
  case h_15 hop | h_19 hop => simp (disch := decide) only [formatBits, hop, reqData_low_masked]
  case h_18 hop | h_20 hop => simp (disch := decide) only [formatBits, hop, reqData_bit_masked]
  -- format M (R113)
  case h_16 hop => simp (disch := decide) only [formatBits, hop, reqArgByte_masked]
  -- format N (R114) and the illegal opcodes (R115) read `req.op` alone
  case h_17 | h_21 => rfl

/-- Settles O2: both requests decode as what the mask of their common opcode leaves of them. -/
theorem ignoredBitsAreIgnored : Obligations.IgnoredBitsAreIgnored := by
  intro w v hagree
  have hop : reqOp v = reqOp w := by
    rw [← reqOp_and_formatBits (reqOp w) v, ← hagree, reqOp_and_formatBits]
  calc decode v
    _ = decode (v &&& formatBits (reqOp v)) := (decode_and_formatBits v).symm
    _ = decode (w &&& formatBits (reqOp w)) := by rw [hop, hagree]
    _ = decode w := decode_and_formatBits w

end Sys2Proof.EncodingProofs
end

section
/-! The bank policy (R161, R166, R182) and the five configuration operations of `41_bank_policy.md`: which slots each
invalidates, and that it leaves everything else as it was. -/

namespace Sys2Proof.BankPolicyProofs

open Sys2Proof Sys2Proof.Machine

/-! ### The policy of the registers -/

theorem portCode_getLsbD (ddr data : Byte) {i : Nat} (h : i < 3) :
    (portCode ddr data).getLsbD i = if ddr.getLsbD i = true then data.getLsbD i else true := by
  cases hddr : ddr.getLsbD i <;> simp [portCode, h, hddr]

/-- The port code, and with it the policy, depends on bits 2 to 0 of the port registers only (R161). -/
theorem portCode_congr {ddr data ddr' data' : Byte} (hddr : ddr.extractLsb' 0 3 = ddr'.extractLsb' 0 3)
    (hdata : data.extractLsb' 0 3 = data'.extractLsb' 0 3) : portCode ddr data = portCode ddr' data' := by
  rw [portCode, hddr, hdata, portCode]

/-- Settles O18: both halves are about the port code; the policy sees the port registers through it alone. -/
theorem portCodeReadsInputsAsOne : Obligations.PortCodeReadsInputsAsOne := by
  refine ⟨fun ddr data i => portCode_getLsbD ddr data, fun P ddr data ddr' data' rv p hddr hdata => ?_⟩
  rw [bankView, portCode_congr hddr hdata, bankView]

theorem bankTable_romselClear : ∀ code : BitVec 3, bankedZones.map (bankTable code 0x0#4) = bankRowClear code := by
  decide

theorem bankTable_romselSet : ∀ code : BitVec 3, bankedZones.map (bankTable code 0xF#4) = bankRowSet code := by
  decide

/-- Settles O19: the view is the table at the port code, with ROM-select clear in the two privileged columns. -/
theorem bankPolicyMatchesFixture : Obligations.BankPolicyMatchesFixture := by
  intro ddr data
  have hclear := bankTable_romselClear (portCode ddr data)
  have hset := bankTable_romselSet (portCode ddr data)
  exact ⟨hclear, hset, hclear, hclear⟩

/-- While privileged the value of `romvis` does not enter the policy (R167). -/
theorem currentBank_romvis_of_priv (P : Params) {s : State} (h : s.priv = true) (rv : BitVec 4) :
    currentBank P { s with romvis := rv } = currentBank P s := by
  simp [currentBank, bankView, romvisEff, h]

/-! ### Exact invalidation of one slot (R214) -/

/-- Of a slot before and after: it is `Unresolved` after if `c`, and as it was if not. -/
def ClearedIff (c : Prop) (before after : Slot) : Prop := (c → after = none) ∧ (¬ c → after = before)

/-- Two invalidations one after the other select what either selects. -/
theorem ClearedIff.trans {c d : Prop} {t u v : Slot} (htu : ClearedIff c t u) (huv : ClearedIff d u v) :
    ClearedIff (c ∨ d) t v := by
  obtain ⟨hcleared, hkept⟩ := htu
  obtain ⟨hcleared', hkept'⟩ := huv
  by_cases hd : d
  · exact ⟨fun _ => hcleared' hd, fun h => absurd (.inr hd) h⟩
  · rw [hkept' hd]
    exact ⟨fun h => hcleared (h.resolve_right hd), fun h => hkept (h ∘ .inl)⟩

/-- An invalidation that happens unless `c`, seen in the slot that `slot` reads. -/
theorem ClearedIff.if_not {d : Prop} {slot : State → Slot} {s t : State} (h : ClearedIff d (slot s) (slot t))
    (c : Prop) [Decidable c] : ClearedIff (¬ c ∧ d) (slot s) (slot (if c then s else t)) := by
  obtain ⟨hcleared, hkept⟩ := h
  split
  · next hc => exact ⟨fun hcd => absurd hc hcd.1, fun _ => rfl⟩
  · next hc => exact ⟨fun hcd => hcleared hcd.2, fun h => hkept fun hd => h ⟨hc, hd⟩⟩

/-- A filter clears a slot if the condition is that its value, where it has one, is selected. -/
theorem clearedIff_filter {t : Slot} {sel : Resolved → Bool} {c : Prop} (hc : ∀ r, t = some r → (sel r = true ↔ c)) :
    ClearedIff c t (t.filter fun r => !sel r) := by
  cases t with
  | none => exact ⟨fun _ => rfl, fun _ => rfl⟩
  | some r =>
    have hsel : sel r = true ↔ c := hc r rfl
    exact ⟨fun h => by simp [hsel.2 h], fun h => by simp [mt hsel.1 h]⟩

/-! ### Exact invalidation by the operations' parts (R168, R176, R180) -/

section
variable {sel : Resolved → Bool} {c : Resolved → Prop} (hsel : ∀ r, sel r = true ↔ c r)
include hsel

theorem clearedIff_invalidateAll_page {s : State} (hw : pagesWf s) (q : PageNo) :
    ClearedIff (∃ r, pslotAt q s = some r ∧ c r) (pslotAt q s) (pslotAt q (invalidateAll sel s)) := by
  have hpage : pslotAt q (invalidateAll sel s) = (pslotAt q s).filter fun r => !sel r :=
    pslotAt_invalidatePages hw.1 (fun _ r => sel r) q
  rw [hpage]
  exact clearedIff_filter fun r hr => by simp [hr, hsel]

theorem clearedIff_invalidateAll_special (s : State) (k : SpecialSlot) :
    ClearedIff (∃ r, sslotAt k s = some r ∧ c r) (sslotAt k s) (sslotAt k (invalidateAll sel s)) := by
  have hspecial : sslotAt k (invalidateAll sel s) = (sslotAt k s).filter fun r => !sel r :=
    sslotAt_invalidateSpecials sel k _
  rw [hspecial]
  exact clearedIff_filter fun r hr => by simp [hr, hsel]

end

theorem pagesWf_privInvalidate {s : State} (p : Bool) (hw : pagesWf s) : pagesWf (privInvalidate p s) := by
  unfold privInvalidate
  split
  · exact hw
  · exact pagesWf_congr (invalidateSpecials_pslots _ _) (pagesWf_invalidatePages _ hw)

/-- `BankUpdate` from the view of `s` clears the pages of the zones whose entry in `u` differs (R168). -/
theorem clearedIff_bankUpdate_page (P : Params) (s : State) {u : State} (hw : pagesWf u) (p : PageNo) :
    ClearedIff (zoneChanged P s u p) (pslotAt p u) (pslotAt p (bankUpdate P (currentBank P s) u)) := by
  rw [pslotAt_bankUpdate P hw.1]
  exact clearedIff_filter fun _ _ => by simp [zoneChanged, pageBanked]

/-! ### The operations on a running block -/

section
variable {s : State} (hrun : s.run = .running)
include hrun

theorem exec_portWrite (sel : PortReg) (v : Byte) :
    exec (.portWrite sel v) s =
      .next (respond .ok 0x00#8 (bankUpdate params (currentBank params s) (putPort sel v s))) := by
  rw [exec, execPortWrite, opPortWrite, operate_running hrun, portStore]

theorem exec_romselWrite (rv : BitVec 4) :
    exec (.romselWrite rv) s =
      .next (respond .ok 0x00#8 (bankUpdate params (currentBank params s) { s with romvis := rv })) := by
  rw [exec, execRomselWrite, opRomselWrite, operate_running hrun]

theorem exec_privSet (p : Bool) :
    exec (.privSet p) s =
      .next (respond .ok 0x00#8 (bankUpdate params (currentBank params s) { privInvalidate p s with priv := p })) := by
  rw [exec, execPrivSet, opPrivSet, operate_running hrun]

theorem exec_layoutSet (l : Layout) :
    exec (.layoutSet l) s = .next (respond .ok 0x00#8 { s with ioLayout := l }) := by
  rw [exec, execLayoutSet, opLayoutSet, operate_running hrun]

theorem exec_romwpSet (w : Bool) :
    exec (.romwpSet w) s = .next (respond .ok 0x00#8 { romwpInvalidate w s with romWp := w }) := by
  rw [exec, execRomwpSet, opRomwpSet, operate_running hrun]

end

theorem respond_ok (s : State) :
    respond .ok 0x00#8 s = { s with rsp := some 0x0000#16, events := s.events ++ [.response 0x0000#16] } := rfl

/-- Settles O27: there is nothing but the write and the response. -/
theorem layoutSetResult : Obligations.LayoutSetResult := by
  intro s l hrun
  rw [exec_layoutSet hrun, respond_ok]

/-- Settles O24: the port's write leaves the page slots alone, so `BankUpdate` alone decides them. -/
theorem portWriteResult : Obligations.PortWriteResult := by
  intro s sel v hrun hw
  refine ⟨_, exec_portWrite hrun sel v, by cases sel <;> rfl, fun p => ?_⟩
  have hslots : (putPort sel v s).pslots = s.pslots := putPort_pslots sel v s
  have hcleared := clearedIff_bankUpdate_page params s (pagesWf_congr hslots hw) p
  rw [pslotAt_congr hslots] at hcleared
  exact hcleared

/-- Settles O25: `BankUpdate` alone decides the page slots, and while privileged no entry changes. -/
theorem romselWriteResult : Obligations.RomselWriteResult := by
  intro s rv hrun hw
  have hcleared : ∀ p, ClearedIff (zoneChanged params s { s with romvis := rv } p) (pslotAt p s) _ :=
    clearedIff_bankUpdate_page params s (u := { s with romvis := rv }) hw
  refine ⟨_, exec_romselWrite hrun rv, rfl, hcleared, fun hpriv p => (hcleared p).2 ?_⟩
  rintro ⟨-, hchanged⟩
  exact hchanged (congrFun (currentBank_romvis_of_priv params hpriv rv).symm _)

/-- Settles O26: a page slot meets the invalidation of the marked slots and then `BankUpdate`, a special slot the first
alone. -/
theorem privSetResult : Obligations.PrivSetResult := by
  intro s p hrun hw
  have hmark : ∀ r : Resolved, r.privDep = true ↔ r.privDep = true := fun _ => Iff.rfl
  refine ⟨_, exec_privSet hrun p, by unfold privInvalidate; split <;> rfl, fun q => ?_, fun k => ?_⟩
  · have hmarked : ClearedIff _ (pslotAt q s) (pslotAt q (privInvalidate p s)) :=
      (clearedIff_invalidateAll_page hmark hw q).if_not (p = s.priv)
    have hzone := clearedIff_bankUpdate_page params s (u := { privInvalidate p s with priv := p })
      (pagesWf_privInvalidate p hw) q
    exact hmarked.trans hzone
  · exact (clearedIff_invalidateAll_special hmark s k).if_not (p = s.priv)

/-- Settles O28: page and special slots meet the one invalidation of the slots of kind `SHADOW_ROM`. -/
theorem romwpSetResult : Obligations.RomwpSetResult := by
  intro s w hrun hw
  have hkind : ∀ r : Resolved, decide (r.kind = .shadowRom) = true ↔ r.kind = .shadowRom := fun _ => decide_eq_true_iff
  refine ⟨_, exec_romwpSet hrun w, by unfold romwpInvalidate; split <;> rfl, fun q => ?_, fun k => ?_⟩
  · exact (clearedIff_invalidateAll_page hkind hw q).if_not (w = s.romWp)
  · exact (clearedIff_invalidateAll_special hkind s k).if_not (w = s.romWp)

end Sys2Proof.BankPolicyProofs
end

section
/-! The extended map (`42_extended_map.md`): the fields of the default `MAP_DECODE`, the width of the translation, and the
exact effect of `MAP_APPLY` and `MAP_COMMIT`. -/

namespace Sys2Proof.ExtendedMapProofs

open Sys2Proof Sys2Proof.Machine Sys2Proof.BankPolicyProofs

/-! ### The fields as numbers (R192, R197) -/

/-- The low nibble of `hi` goes to bits 19 to 16, `lo` to bits 15 to 8. -/
theorem remapOffset_toNat (hi lo : Byte) :
    (remapOffset hi lo).toNat = (hi.toNat % 16) * 2 ^ 16 + lo.toNat * 2 ^ 8 := by
  have hnibble : (hi.extractLsb' 0 4).toNat = hi.toNat % 16 := by simp [BitVec.extractLsb'_toNat]
  rw [remapOffset, toNat_append_add, toNat_append_add, hnibble, BitVec.toNat_ofNat]
  omega

/-- The high nibble of a byte is its quotient by 16. -/
theorem highNibble_toNat (v : Byte) : (v.extractLsb' 4 4).toNat = v.toNat / 16 := by
  have hlt : v.toNat < 256 := v.isLt
  rw [BitVec.extractLsb'_toNat, Nat.shiftRight_eq_div_pow]
  omega

theorem remapMask_toNat (x z : Byte) : (remapMask x z).toNat = (z.toNat / 16) * 16 + x.toNat / 16 := by
  simp only [remapMask, toNat_append_add, highNibble_toNat, Nat.reducePow]

/-- Settles O21: each offset and the mask by its own lemma; a megabyte field is the definition's choice. -/
theorem remapBytesBecomeFields : Obligations.RemapBytesBecomeFields := by
  intro a x y z old
  exact ⟨remapOffset_toNat x a, remapOffset_toNat z y, remapMask_toNat x z, rfl, rfl⟩

/-- Settles O22: the megabyte stands above a 20-bit sum, which a 16-bit address enters without loss. -/
theorem translationStaysInMegabyte : Obligations.TranslationStaysInMegabyte := by
  intro mb off a
  have haddr : (a.setWidth 20).toNat = a.toNat := BitVec.toNat_setWidth_of_le (by decide)
  rw [mapTranslate, toNat_append_add, BitVec.toNat_add, haddr]

/-! ### The invalidated pages (R195, R199) -/

theorem pageHigh_iff (p : PageNo) : pageHigh p = true ↔ 0x80 ≤ p.toNat := decide_eq_true_iff

/-- The engine compares the entries of the low blocks only. A page outside them lies at or above 0x80 and goes anyway, so
the restriction can be left out. -/
theorem remapInvalidates_iff (old new : MapConfig) (p : PageNo) :
    remapInvalidates old new p = true ↔
      0x80 ≤ p.toNat ∨ mapEntry old (pageBlock p) ≠ mapEntry new (pageBlock p) := by
  rw [remapInvalidates, Bool.or_eq_true, pageHigh_iff, Bool.and_eq_true, decide_eq_true_iff, decide_eq_true_iff,
    pageBlock_lt_four]
  by_cases hhigh : 0x80 ≤ p.toNat
  · simp [hhigh]
  · simp [hhigh, Nat.lt_of_not_le hhigh]

/-- An invalidation by page number alone clears exactly the pages it selects (R214). -/
theorem clearedIff_invalidatePages {s : State} (hw : pagesWf s) {sel : PageNo → Bool} {c : PageNo → Prop}
    (hsel : ∀ p, sel p = true ↔ c p) (p : PageNo) :
    ClearedIff (c p) (pslotAt p s) (pslotAt p (invalidatePages (fun q _ => sel q) s)) := by
  rw [pslotAt_invalidatePages hw.1]
  exact clearedIff_filter fun _ _ => hsel p

/-! ### The operations on a running block -/

section
variable {s : State} (hrun : s.run = .running)
include hrun

theorem exec_mapApply (a x y z : Byte) :
    exec (.mapApply a x y z) s =
      .next (respond .ok 0x00#8
        (invalidatePages (fun p _ => remapInvalidates s.map (params.mapDecode a x y z s.map) p)
          { s with map := params.mapDecode a x y z s.map, irqInhibit := true })) := by
  rw [exec, execMapApply, opMapApply, operate_running hrun]

theorem exec_mapCommit :
    exec .mapCommit s =
      .next (respond .ok 0x00#8 (invalidatePages (fun p _ => pageHigh p) { s with irqInhibit := false })) := by
  rw [exec, execMapCommit, opMapCommit, operate_running hrun]

end

/-- Settles O29: the map's write leaves the page slots alone, so the one invalidation decides them. -/
theorem mapApplyResult : Obligations.MapApplyResult := by
  intro s a x y z hrun hw
  have hcleared := clearedIff_invalidatePages
    (s := { s with map := params.mapDecode a x y z s.map, irqInhibit := true }) (pagesWf_congr rfl hw)
    (remapInvalidates_iff s.map (params.mapDecode a x y z s.map))
  exact ⟨_, exec_mapApply hrun a x y z, rfl, hcleared⟩

/-- Settles O30: the pages at or above 0x80 are cleared, and only they. -/
theorem mapCommitResult : Obligations.MapCommitResult := by
  intro s hrun hw
  refine ⟨_, exec_mapCommit hrun, rfl, fun p => ?_⟩
  obtain ⟨hcleared, hkept⟩ := clearedIff_invalidatePages
    (s := { s with irqInhibit := false }) (pagesWf_congr rfl hw) pageHigh_iff p
  exact ⟨hcleared, fun hlow => hkept (Nat.not_le_of_lt hlow)⟩

end Sys2Proof.ExtendedMapProofs
end

section
/-! The impossible address (R282): the halt of the format-L operations, and what an operation leaves in `run` otherwise. -/

namespace Sys2Proof.ExceptionProofs

open Sys2Proof Sys2Proof.Machine

/-! ### What an operation can leave in `run` (R280, R284) -/

/-- Of `run` before and after: it is as it was, or the block aborted on an unmapped access (R284). -/
def KeptOrAborted (before after : Run) : Prop := after = before ∨ ∃ a pc, after = .halted .abort a pc

/-- An abort is not the halt on an impossible address, so a running block does not come to that one. -/
theorem KeptOrAborted.ne_impossible {before after : Run} (h : KeptOrAborted before after) (hrun : before = .running)
    (a : WideAddr) (pc : CpuPc) : after ≠ .halted .impossible a pc := by
  obtain rfl | ⟨_, _, rfl⟩ := h
  · simp [hrun]
  · simp

theorem unmappedAccess_run (l : LinAddr) (pc : CpuPc) (w : Bool) (v : Byte) (s : State) :
    KeptOrAborted s.run (finish (unmappedAccess l pc w v s)).run := by
  obtain ⟨-, h⟩ | ⟨-, -, h⟩ | ⟨-, -, h⟩ | ⟨-, -, h⟩ := unmappedAccess_cases l pc w v s <;> rw [h]
  · exact .inl rfl
  · exact .inr ⟨_, _, rfl⟩
  · exact .inl rfl
  · exact .inl rfl

theorem execRead_run (P : Params) (r : Resolved) (o : Byte) (dbg : Bool) (pc : CpuPc) (s : State) :
    KeptOrAborted s.run (finish (execRead P r o dbg pc s)).run := by
  obtain ⟨_, h⟩ | ⟨_, _, h⟩ | ⟨-, h⟩ := execRead_cases P r o dbg pc s <;> rw [h]
  · exact .inl rfl
  · exact .inl rfl
  · exact unmappedAccess_run _ _ _ _ s

theorem execWrite_run (P : Params) (r : Resolved) (o v : Byte) (dbg : Bool) (pc : CpuPc) (s : State) :
    KeptOrAborted s.run (finish (execWrite P r o v dbg pc s)).run := by
  obtain h | ⟨-, h⟩ | ⟨-, -, -, h⟩ | ⟨-, sel, h⟩ | ⟨_, _, h⟩ | ⟨-, h⟩ := execWrite_cases P r o v dbg pc s <;> rw [h]
  · exact .inl rfl
  · exact .inl rfl
  · exact .inl rfl
  · exact .inl (portStore_run P sel v s)
  · exact .inl rfl
  · exact unmappedAccess_run _ _ _ _ s

/-- An operation whose effect leaves `run` alone leaves it alone, in a halted block too (R289). -/
theorem operate_run {f : State → State} {s t : State} (h : operate f s = .next t) (hf : (f s).run = s.run) :
    t.run = s.run := by
  obtain ⟨-, heq⟩ | ⟨-, heq⟩ := operate_cases f s <;> rw [heq] at h <;> cases h
  · exact hf
  · rfl

/-- No configuration operation halts the block, and none wakes it. -/
theorem execAt_configuration_run {P : Params} {i : Instr} {s t : State} (hi : isConfiguration i = true)
    (h : execAt P i s = .next t) : t.run = s.run := by
  cases i with
  | portWrite sel v => rw [execAt, opPortWrite] at h; exact operate_run h (portStore_run P sel v s)
  | romselWrite rv => rw [execAt, opRomselWrite] at h; exact operate_run h rfl
  | mapApply a x y z => rw [execAt, opMapApply] at h; exact operate_run h rfl
  | mapCommit => rw [execAt, opMapCommit] at h; exact operate_run h rfl
  | privSet p => rw [execAt, opPrivSet] at h; exact operate_run h (privInvalidate_run p s)
  | layoutSet l => rw [execAt, opLayoutSet] at h; exact operate_run h rfl
  | romwpSet w => rw [execAt, opRomwpSet] at h; exact operate_run h (romwpInvalidate_run w s)
  | _ => simp [isConfiguration] at hi

/-! ### The two halves of R282 -/

theorem inLinearSpace_eq_false {a : WideAddr} (h : 2 ^ 28 ≤ a.toNat) : inLinearSpace a = false :=
  decide_eq_false (Nat.not_lt.2 h)

/-- Without a 32-bit address operand only the unmapped access can halt a running block. -/
theorem execAt_run_of_not_linear {P : Params} {i : Instr} {s t : State} (hi : linearOperand i = none)
    (hrun : s.run = .running) (h : execAt P i s = .next t) : KeptOrAborted s.run t.run := by
  obtain hread | hwrite | hconf := operation_kinds i
  · obtain ⟨_, _, _, hlin, -⟩ | ⟨_, _, _, _, _, _, heq⟩ := execAt_read_cases P hread hrun
    · simp [hi] at hlin
    · rw [heq] at h
      cases h
      exact execRead_run _ _ _ _ _ _
  · obtain ⟨_, _, _, hlin, -⟩ | ⟨_, _, _, _, _, _, _, heq⟩ := execAt_write_cases P hwrite hrun
    · simp [hi] at hlin
    · rw [heq] at h
      cases h
      exact execWrite_run _ _ _ _ _ _ _
  · exact .inl (execAt_configuration_run hconf h)

/-- Settles O43: a format-L operation halts before it looks at its slot, and of the other operations an access at most
aborts. -/
theorem impossibleAddressHalts : Obligations.ImpossibleAddressHalts := by
  refine ⟨fun i s a k pc hi hrun ha => ?_, fun i s t hi hrun h => ?_⟩
  · rw [← execAt_params, execAt_impossible hi hrun (inLinearSpace_eq_false ha)]
    rfl
  · rw [← execAt_params] at h
    exact (execAt_run_of_not_linear hi hrun h).ne_impossible hrun

end Sys2Proof.ExceptionProofs
end

section
/-! The round trip through the encoder (R100, R102, R110 to R114), words written out from the spec (V10, R120), and the
step that takes a request the decoder knows (R103). -/

namespace Sys2Proof.EncodingProofs

open Sys2Proof Sys2Proof.Machine

/-- The opcode picks the decoder's row (`reqOp_encode`); what is left is that the row's fields come back from the word the
encoder made of them, format by format. -/
theorem decode_encode (i : Instr) : decode (encode i) = .ok i := by
  have hop := reqOp_encode i
  unfold decode
  rw [hop]
  cases i with
  -- format A (R110) and format L (R111)
  | cpuRead | cpuWrite | dbgCpuRead | dbgCpuWrite => simp [Instr.opcode, encode]
  | flatRead | flatWrite | dmaListRead | dmaSrcRead | dmaSrcWrite | dmaTgtRead | dmaTgtWrite | dbgLinRead | dbgLinWrite =>
    simp [Instr.opcode, encode]
  -- format C (R112)
  | portWrite => simp [Instr.opcode, encode]
  | romselWrite => simp only [Instr.opcode, encode, reqData_requestWord, lowNibble_append]; rfl
  | layoutSet => simp only [Instr.opcode, encode, reqData_requestWord, lowPair_append]; rfl
  | privSet | romwpSet => simp only [Instr.opcode, encode, reqData_requestWord, byteOfBit_bit]; rfl
  -- format M (R113)
  | mapApply a x y z =>
    obtain ⟨ha, hx, hy, hz⟩ := reqArgByte_requestWord 0x42#8 0#8 0#16 a x y z
    simp only [Instr.opcode, encode, ha, hx, hy, hz]; rfl
  -- format N (R114)
  | mapCommit => rfl

/-- Settles O1: no operation is ill formed, and `decode_encode` reads each back. -/
theorem decodeEncodeRoundTrip : Obligations.DecodeEncodeRoundTrip :=
  fun i => ⟨legalOpcode_opcode i, decode_encode i⟩

/-- Settles O4: eight closed words, each decoded by evaluation. -/
theorem specWordsDecode : Obligations.SpecWordsDecode := by
  unfold Obligations.SpecWordsDecode
  decide

end Sys2Proof.EncodingProofs
end

section
/-! Checked tables once more: the unique claim (R63), the whole pages (R64(a)), where `Canon` lands (R33, R70), the store
primitives (R71, R72), and the default instances of the parameters (R65, R165, R192). -/

namespace Sys2Proof.MemoryProofs

open Sys2Proof Sys2Proof.Machine

/-! ### The region of an address -/

/-- In a checked table the region of an address of the linear space is an entry, and the only one that claims it. -/
theorem regionOf_spec {table : List Region} (h : selfCheck table = true) {l : Nat} (hl : l < 2 ^ 28) :
    regionOf table l ∈ table ∧ regionClaims (regionOf table l) l = true ∧
      (table.filter fun r => regionClaims r l) = [regionOf table l] := by
  obtain ⟨r, hr, hone⟩ := (selfCheck_claims h l).1 hl
  have hclaims : regionClaims r l = true := by
    have hlisted : r ∈ table.filter fun e => regionClaims e l := by simp [hone]
    exact (List.mem_filter.1 hlisted).2
  rw [regionOf_of_claims h hr hclaims]
  exact ⟨hr, hclaims, hone⟩

/-- Settles O12: the two halves of `selfCheck_claims`, with `Region` named as the one entry. -/
theorem checkedTableClaimsEachAddressOnce : Obligations.CheckedTableClaimsEachAddressOnce :=
  fun _ h => ⟨fun _ hl => (regionOf_spec h hl).2.2, fun l hl => (selfCheck_claims h l).2 hl⟩

/-- R64(a): the entry that claims a page's first byte claims the whole page. -/
theorem regionOf_page {table : List Region} (h : selfCheck table = true) {b o : Nat} (hb : b < 2 ^ 28)
    (haligned : b % 256 = 0) (ho : o < 256) : regionOf table (b + o) = regionOf table b := by
  obtain ⟨hmem, hclaims, -⟩ := regionOf_spec h hb
  obtain ⟨_, _, _, _, _, hpages, _⟩ := selfCheck_parts h
  obtain ⟨hstart, hstop⟩ : (regionOf table b).start % 256 = 0 ∧ (regionOf table b).stop % 256 = 255 := by
    simpa using List.all_eq_true.1 hpages _ hmem
  exact regionOf_of_claims h hmem ((regionClaims_page hstart hstop haligned ho).trans hclaims)

/-- Settles O13: `regionOf_page` for every page. -/
theorem checkedPagesLieInOneRegion : Obligations.CheckedPagesLieInOneRegion :=
  fun _ h _ _ hb haligned ho => regionOf_page h hb haligned ho

theorem kindAt_page {table : List Region} (h : selfCheck table = true) {b o : Nat} (hb : b < 2 ^ 28)
    (haligned : b % 256 = 0) (ho : o < 256) : kindAt table (b + o) = kindAt table b := by
  rw [kindAt, regionOf_page h hb haligned ho, kindAt]

/-! ### Where `Canon` lands (R33, R70) -/

/-- An address of the shared window is the window's base and less than 0x800 more. -/
theorem exists_sharedOffset {table : List Region} (h : selfCheck table = true) {l : Nat} (hl : l < 2 ^ 28)
    (hkind : kindAt table l = .sharedRam) : ∃ i < 0x800, l = baseOfKind table .sharedRam + i := by
  obtain ⟨hmem, hclaims, -⟩ := regionOf_spec h hl
  obtain ⟨_, _, _, _, _, _, hshared, _⟩ := selfCheck_parts h
  obtain ⟨r, hr, hsize⟩ := exists_sharedWindow hshared
  have hlisted : regionOf table l ∈ entriesOfKind table .sharedRam := List.mem_filter.2 ⟨hmem, decide_eq_true hkind⟩
  obtain rfl : regionOf table l = r := by simpa [hr] using hlisted
  simp only [regionClaims, Bool.and_eq_true, decide_eq_true_eq] at hclaims
  rw [regionSize] at hsize
  rw [baseOfKind_of_entriesOfKind hr]
  exact ⟨l - (regionOf table l).start, by omega, by omega⟩

/-- A checked table has no address with a kind but those of the linear space. -/
theorem lt_of_kindAt_ne_unmapped {table : List Region} (h : selfCheck table = true) {l : Nat}
    (hkind : kindAt table l ≠ .unmapped) : l < 2 ^ 28 := by
  by_contra hl
  have hnone : (table.find? fun r => regionClaims r l) = none := by
    rw [← List.head?_filter, (selfCheck_claims h l).2 (Nat.not_lt.1 hl), List.head?_nil]
  exact hkind (by rw [kindAt, regionOf, hnone, Option.getD_none])

/-- The shared window lands in colour RAM; every other address stays, and with it its kind (R70). -/
theorem kindAt_canon {table : List Region} (h : selfCheck table = true) {l : Nat} (hl : l < 2 ^ 28) :
    kindAt table (canon table l) = if kindAt table l = .sharedRam then .colourRam else kindAt table l := by
  split
  · next hkind =>
    obtain ⟨i, hi, rfl⟩ := exists_sharedOffset h hl hkind
    rw [canon_sharedWindow h hi, kindAt_colourRam h hi]
  · next hkind => rw [canon_of_ne_sharedRam hkind]

theorem kindAt_canon_ne_sharedRam {table : List Region} (h : selfCheck table = true) {l : Nat} (hl : l < 2 ^ 28) :
    kindAt table (canon table l) ≠ .sharedRam := by
  rw [kindAt_canon h hl]
  split
  · simp
  · assumption

theorem canonicalStorage_canon {table : List Region} (h : selfCheck table = true) {l : Nat} (hl : l < 2 ^ 28)
    (hstored : storageBacked (kindAt table l) = true) : canonicalStorage table (canon table l) = true := by
  have hbacked : storageBacked (kindAt table (canon table l)) = true := by
    rw [kindAt_canon h hl]
    split
    · rfl
    · exact hstored
  have hlow : canon table l < 2 ^ 28 := lt_of_kindAt_ne_unmapped h fun hnone => by simp [hnone, storageBacked] at hbacked
  simp only [canonicalStorage, Bool.and_eq_true, decide_eq_true_eq]
  exact ⟨⟨hlow, hbacked⟩, kindAt_canon_ne_sharedRam h hl⟩

/-- Settles O14: the landing place is canonical storage and no shared address, so a second fold leaves it there. -/
theorem canonLandsOnCanonicalStorage : Obligations.CanonLandsOnCanonicalStorage :=
  fun _ h _ hl hstored =>
    ⟨canonicalStorage_canon h hl hstored, canon_of_ne_sharedRam (kindAt_canon_ne_sharedRam h hl), canon_of_ne_sharedRam⟩

/-- Two addresses have different bytes when one is of a kind that the other is not, unless that is one of the two kinds
the fold joins. -/
theorem canon_ne_of_kind {table : List Region} (h : selfCheck table = true) {l m : Nat} (hm : m < 2 ^ 28)
    (hshared : kindAt table l ≠ .sharedRam) (hcolour : kindAt table l ≠ .colourRam)
    (hkind : kindAt table m ≠ kindAt table l) : canon table l ≠ canon table m := by
  intro heq
  rw [canon_of_ne_sharedRam hshared] at heq
  have hland := kindAt_canon h hm
  rw [← heq] at hland
  split at hland
  · exact hcolour hland
  · exact hkind hland.symm

/-! ### The store primitives -/

/-- Settles O15: both reads are `memRead_memWrite`; the write is a write of the store alone. -/
theorem storePrimitivesReadBack : Obligations.StorePrimitivesReadBack := by
  intro P l v s
  refine ⟨memRead_memWrite_of_canon_eq rfl v s, fun j hj => ?_, rfl⟩
  rw [memRead_memWrite, if_neg hj]

/-! ### The default instances -/

/-- R164(c), (d): a policy that is shadow ROM has a base that is a multiple of 0x1000, and LegacyIO is zone 13's alone. -/
def bankEntryOk (z : Zone) : BankEntry → Bool
  | .ram => true
  | .shadowRom b => decide (b.toNat % 0x1000 = 0)
  | .legacyIo => decide (z = 13#4)

theorem bankEntryOk_bankTable : ∀ (c : BitVec 3) (v : BitVec 4) (z : Zone), bankEntryOk z (bankTable c v z) = true := by
  decide

/-- R164: one finite check of every entry, the all-RAM code 0, and code 3 with its shadow ROM in zone 10. -/
theorem bankTableOk_default : bankTableOk bankTable := by
  refine ⟨fun c v z h => ?_, fun c v z b h => ?_, ⟨0#3, by decide⟩, ⟨3#3, 0x002A000#28, by decide⟩⟩
  · simpa [h, bankEntryOk] using bankEntryOk_bankTable c v z
  · simpa [h, bankEntryOk] using bankEntryOk_bankTable c v z

theorem remapOffset_low (hi lo : Byte) : (remapOffset hi lo).extractLsb' 0 8 = 0#8 := by
  unfold remapOffset
  grind

/-- R191(b), R192: both offsets are built with a zero low byte, whatever the old map held. -/
theorem offsetsAligned_mapDecode (a x y z : Byte) (old : MapConfig) : offsetsAligned (mapDecode a x y z old) :=
  ⟨remapOffset_low x a, remapOffset_low z y⟩

/-- U3: a half that selects a megabyte keeps its old offset, which was aligned; the other half gets a new one. -/
theorem mapDecodeOk_megabyteOnly : mapDecodeOk mapDecodeMegabyteOnly := by
  rintro a x y z old ⟨hlow, hhigh⟩
  refine ⟨?_, ?_⟩ <;> simp only [mapDecodeMegabyteOnly]
  · split
    · exact hlow
    · exact remapOffset_low x a
  · split
    · exact hhigh
    · exact remapOffset_low z y

/-- Settles O17: the three parameters by their own lemmas; the default layout needs nothing of the old map. -/
theorem defaultParametersAreLegal : Obligations.DefaultParametersAreLegal :=
  ⟨⟨selfCheck_default, bankTableOk_default, fun a x y z old _ => offsetsAligned_mapDecode a x y z old⟩,
    offsetsAligned_mapDecode, selfCheck_default, bankTableOk_default, mapDecodeOk_megabyteOnly⟩

end Sys2Proof.MemoryProofs
end

section
/-! The layer between the operations and their statements: what an operation is, in a running block and in a halted one,
and what a read or a write of an access does, by what the address reaches (R133 to R142, R245). -/

namespace Sys2Proof.AccessLaws

open Sys2Proof Sys2Proof.Machine

/-! ### The configuration operations in one form -/

/-- What a configuration operation does to a running block before it answers (R170, R172, R175, R178, R180, R195, R199). -/
def configured (P : Params) (i : Instr) (s : State) : State :=
  match i with
  | .portWrite sel v => portStore P sel v s
  | .romselWrite rv => bankUpdate P (currentBank P s) { s with romvis := rv }
  | .mapApply a x y z =>
    invalidatePages (fun p _ => remapInvalidates s.map (P.mapDecode a x y z s.map) p)
      { s with map := P.mapDecode a x y z s.map, irqInhibit := true }
  | .mapCommit => invalidatePages (fun p _ => pageHigh p) { s with irqInhibit := false }
  | .privSet p => bankUpdate P (currentBank P s) { privInvalidate p s with priv := p }
  | .layoutSet l => { s with ioLayout := l }
  | .romwpSet w => { romwpInvalidate w s with romWp := w }
  | _ => s

theorem execAt_configuration (P : Params) {i : Instr} (hi : isConfiguration i = true) (s : State) :
    execAt P i s = operate (fun u => respond .ok 0x00#8 (configured P i u)) s := by
  cases i with
  | portWrite | romselWrite | mapApply | mapCommit | privSet | layoutSet | romwpSet => rfl
  | _ => simp [isConfiguration] at hi

theorem configuration_kind {i : Instr} (hi : isConfiguration i = true) :
    isAccessRead i = false ∧ isAccessWrite i = false ∧ linearOperand i = none := by
  cases i with
  | portWrite | romselWrite | mapApply | mapCommit | privSet | layoutSet | romwpSet => exact ⟨rfl, rfl, rfl⟩
  | _ => cases hi

@[simp] theorem configured_mem (P : Params) (i : Instr) (s : State) : (configured P i s).mem = s.mem := by
  cases i with
  | portWrite sel v => exact portStore_mem P sel v s
  | privSet p => exact privInvalidate_mem p s
  | romwpSet w => exact romwpInvalidate_mem w s
  | _ => rfl

@[simp] theorem configured_run (P : Params) (i : Instr) (s : State) : (configured P i s).run = s.run := by
  cases i with
  | portWrite sel v => exact portStore_run P sel v s
  | privSet p => exact privInvalidate_run p s
  | romwpSet w => exact romwpInvalidate_run w s
  | _ => rfl

@[simp] theorem configured_unmappedMode (P : Params) (i : Instr) (s : State) :
    (configured P i s).unmappedMode = s.unmappedMode := by
  cases i with
  | portWrite sel v => exact portStore_unmappedMode P sel v s
  | privSet p => exact privInvalidate_unmappedMode p s
  | romwpSet w => exact romwpInvalidate_unmappedMode w s
  | _ => rfl

@[simp] theorem configured_choices (P : Params) (i : Instr) (s : State) : (configured P i s).choices = s.choices := by
  cases i with
  | portWrite sel v => exact portStore_choices P sel v s
  | privSet p => exact privInvalidate_choices p s
  | romwpSet w => exact romwpInvalidate_choices w s
  | _ => rfl

@[simp] theorem configured_events (P : Params) (i : Instr) (s : State) : (configured P i s).events = s.events := by
  cases i with
  | portWrite sel v => exact portStore_events P sel v s
  | privSet p => exact privInvalidate_events p s
  | romwpSet w => exact romwpInvalidate_events w s
  | _ => rfl

/-! ### The reader and the writer of an access -/

/-- `ExecRead` of an access (R133). -/
def readAccess (P : Params) (x : Access) (s : State) : Handled := execRead P x.page x.offset x.dbg x.pc s

/-- `ExecWrite` of an access (R133). -/
def writeAccess (P : Params) (x : Access) (s : State) : Handled := execWrite P x.page x.offset x.data x.dbg x.pc s

/-- What an operation does to the state, once per kind of operation; `Makes x u` says that it makes the access `x` on the
state `u`, in which its own slot has been looked up. -/
inductive Effect (P : Params) (i : Instr) (s : State) (Makes : Access → State → Prop) : State → Prop where
  | halted (hrun : s.run ≠ .running) : Effect P i s Makes { s with rsp := none }
  | configuration (hrun : s.run = .running) (hi : isConfiguration i = true) :
    Effect P i s Makes (respond .ok 0x00#8 (configured P i s))
  | impossible (hrun : s.run = .running) (a : WideAddr) (k : SpecialSlot) (pc : CpuPc)
      (hlinear : linearOperand i = some (a, k, pc)) (ha : inLinearSpace a = false) :
    Effect P i s Makes (halt .impossible a pc s)
  | read (hrun : s.run = .running) (hi : isAccessRead i = true) (x : Access) (u : State) (hx : Makes x u) :
    Effect P i s Makes (finish (readAccess P x u))
  | write (hrun : s.run = .running) (hi : isAccessWrite i = true) (x : Access) (u : State) (hx : Makes x u) :
    Effect P i s Makes (finish (writeAccess P x u))

/-- Whatever the slots hold, an access is made on a state that differs in its slots only. -/
def OnSlots (s : State) (_ : Access) (u : State) : Prop := ∃ p k, u = { s with pslots := p, sslots := k }

/-- With a transparent cache it is the access of the fresh resolution, made with the slot filled. -/
def OnFilled (P : Params) (i : Instr) (s : State) (x : Access) (u : State) : Prop :=
  accessOf P i s = some x ∧ u = slotFilled P i s

theorem exists_effect_of_halted (P : Params) (i : Instr) {s : State} (hrun : s.run ≠ .running)
    (Makes : Access → State → Prop) : ∃ t, execAt P i s = .next t ∧ Effect P i s Makes t :=
  ⟨_, execAt_halted i hrun, .halted hrun⟩

theorem exists_effect_of_configuration (P : Params) {i : Instr} {s : State} (hrun : s.run = .running)
    (hi : isConfiguration i = true) (Makes : Access → State → Prop) :
    ∃ t, execAt P i s = .next t ∧ Effect P i s Makes t :=
  ⟨_, (execAt_configuration P hi s).trans (operate_running hrun), .configuration hrun hi⟩

/-- Every operation answers a next state, and which. -/
theorem exists_effect (P : Params) (i : Instr) (s : State) : ∃ t, execAt P i s = .next t ∧ Effect P i s (OnSlots s) t := by
  by_cases hrun : s.run = .running
  · obtain hi | hi | hi := operation_kinds i
    · obtain ⟨a, k, pc, hlinear, ha, h⟩ | ⟨r, o, dbg, pc, p, k, h⟩ := execAt_read_cases P hi hrun
      · exact ⟨_, h, .impossible hrun a k pc hlinear ha⟩
      · exact ⟨_, h, .read hrun hi ⟨r, o, 0#8, dbg, pc⟩ _ ⟨p, k, rfl⟩⟩
    · obtain ⟨a, k, pc, hlinear, ha, h⟩ | ⟨r, o, v, dbg, pc, p, k, h⟩ := execAt_write_cases P hi hrun
      · exact ⟨_, h, .impossible hrun a k pc hlinear ha⟩
      · exact ⟨_, h, .write hrun hi ⟨r, o, v, dbg, pc⟩ _ ⟨p, k, rfl⟩⟩
    · exact exists_effect_of_configuration P hrun hi _
  · exact exists_effect_of_halted P i hrun _

/-- The same with a transparent cache, where the access is known. -/
theorem exists_effect_of_transparent {P : Params} {s : State} (ht : transparent P s) (i : Instr) :
    ∃ t, execAt P i s = .next t ∧ Effect P i s (OnFilled P i s) t := by
  by_cases hrun : s.run = .running
  · obtain hi | ⟨hi, x, hx⟩ | ⟨hi, x, hx⟩ | ⟨a, k, pc, hlinear, ha⟩ := operation_cases P i s
    · exact exists_effect_of_configuration P hrun hi _
    · exact ⟨_, execAt_read hi hrun ht hx, .read hrun hi x _ ⟨hx, rfl⟩⟩
    · exact ⟨_, execAt_write hi hrun ht hx, .write hrun hi x _ ⟨hx, rfl⟩⟩
    · exact ⟨_, execAt_impossible hlinear hrun ha, .impossible hrun a k pc hlinear ha⟩
  · exact exists_effect_of_halted P i hrun _

theorem effect_of_execAt {P : Params} {i : Instr} {s t : State} (h : execAt P i s = .next t) :
    Effect P i s (OnSlots s) t := by
  obtain ⟨u, hu, heffect⟩ := exists_effect P i s
  rw [h] at hu
  cases hu
  exact heffect

theorem effect_of_transparent {P : Params} {i : Instr} {s t : State} (ht : transparent P s)
    (h : execAt P i s = .next t) : Effect P i s (OnFilled P i s) t := by
  obtain ⟨u, hu, heffect⟩ := exists_effect_of_transparent ht i
  rw [h] at hu
  cases hu
  exact heffect

theorem effect_of_exec {i : Instr} {s t : State} (h : exec i s = .next t) : Effect params i s (OnSlots s) t :=
  effect_of_execAt ((execAt_params i s).trans h)

theorem effect_of_exec_transparent {i : Instr} {s t : State} (ht : transparent params s) (h : exec i s = .next t) :
    Effect params i s (OnFilled params i s) t :=
  effect_of_transparent ht ((execAt_params i s).trans h)

section
variable {i : Instr} {s : State} {x : Access}

theorem exec_read (hi : isAccessRead i = true) (hrun : s.run = .running) (ht : transparent params s)
    (hx : accessOf params i s = some x) : exec i s = .next (finish (readAccess params x (slotFilled params i s))) :=
  (execAt_params i s).symm.trans (execAt_read hi hrun ht hx)

theorem exec_write (hi : isAccessWrite i = true) (hrun : s.run = .running) (ht : transparent params s)
    (hx : accessOf params i s = some x) : exec i s = .next (finish (writeAccess params x (slotFilled params i s))) :=
  (execAt_params i s).symm.trans (execAt_write hi hrun ht hx)

end

/-! ### The zero page -/

/-- The handler of the zero page stands at linear address 0 (R217), so that its byte `o` is the access's own target. -/
def ZeroPageAtZero (x : Access) : Prop := x.page.handler = .zp → x.page = zeroPage

theorem resolveLinearPage_ne_zp (P : Params) (w : Bool) (b : LinAddr) : (resolveLinearPage P w b).handler ≠ .zp :=
  handlerOf_ne_zp _ _

theorem resolveCpuPage_zp {P : Params} {s : State} {p : PageNo} (h : (resolveCpuPage P s p).handler = .zp) :
    resolveCpuPage P s p = zeroPage := by
  obtain hzero | hlegacy | ⟨b, hlinear⟩ := resolveCpuPage_cases P s p
  · exact hzero
  · simp [hlegacy, legacyIoPage] at h
  · exact absurd (hlinear ▸ h) (resolveLinearPage_ne_zp _ _ _)

/-- What the page of an access is: a CPU page as resolved, or the linear page of an address of the space. -/
theorem accessOf_page {P : Params} {i : Instr} {s : State} {x : Access} (hx : accessOf P i s = some x) :
    (∃ p, x.page = resolveCpuPage P s p) ∨ ∃ a, x.page = resolveLinearPage P s.romWp (linearPage a) := by
  cases i with
  | cpuRead | cpuWrite | dbgCpuRead | dbgCpuWrite => cases hx; exact .inl ⟨_, rfl⟩
  | flatRead | flatWrite | dmaListRead | dmaSrcRead | dmaSrcWrite | dmaTgtRead | dmaTgtWrite | dbgLinRead | dbgLinWrite =>
    obtain ⟨-, rfl⟩ := linearAccess_some hx
    exact .inr ⟨_, rfl⟩
  | _ => cases hx

theorem zeroPageAtZero_of_accessOf {P : Params} {i : Instr} {s : State} {x : Access} (hx : accessOf P i s = some x) :
    ZeroPageAtZero x := by
  intro hzp
  obtain ⟨p, hp⟩ | ⟨a, ha⟩ := accessOf_page hx
  · rw [hp] at hzp ⊢
    exact resolveCpuPage_zp hzp
  · rw [ha] at hzp
    exact absurd hzp (resolveLinearPage_ne_zp _ _ _)

/-- The zero page is reached by the operations with a CPU address only (R132, R217). -/
theorem linearOperand_of_zp {P : Params} {i : Instr} {s : State} {x : Access} (hx : accessOf P i s = some x)
    (hzp : x.page.handler = .zp) : linearOperand i = none := by
  cases i with
  | flatRead | flatWrite | dmaListRead | dmaSrcRead | dmaSrcWrite | dmaTgtRead | dmaTgtWrite | dbgLinRead | dbgLinWrite =>
    obtain ⟨-, rfl⟩ := linearAccess_some hx
    exact absurd hzp (resolveLinearPage_ne_zp _ _ _)
  | _ => rfl

/-- The offset of a port register in the zero page (R245). -/
def portOffset : PortReg → Byte
  | .ddr => 0#8
  | .data => 1#8

/-- What a port register holds (R23). -/
def portValue (s : State) : PortReg → Byte
  | .ddr => s.portDdr
  | .data => s.portData

/-! ### What an access does, by what it reaches -/

section
variable {P : Params} {x : Access} {s : State}

theorem zeroPage_target (hzp : x.page = zeroPage) : x.target = x.offset.setWidth 28 := by
  rw [Access.target, hzp]
  exact BitVec.zero_add _

theorem readAccess_of_reachesStore (hzero : ZeroPageAtZero x) (h : reachesStore x s) :
    readAccess P x s = .reply .ok (memRead P x.target s) s := by
  obtain h | h | h | ⟨h, hseen⟩ | ⟨h, h0, h1⟩ := h
  · simp only [readAccess, execRead, h]; rfl
  · simp only [readAccess, execRead, h]; rfl
  · simp only [readAccess, execRead, h]; rfl
  · have hview : (s.priv || x.dbg) = true := by simpa using hseen
    simp only [readAccess, execRead, h, hview, if_true]; rfl
  · simp only [readAccess, execRead, h, zeroPageRead, if_neg h0, if_neg h1, zeroPage_target (hzero h)]

theorem writeAccess_of_mayStore (hzero : ZeroPageAtZero x) (h : mayStore x s) :
    writeAccess P x s = .reply .ok 0x00#8 (memWrite P x.target x.data s) := by
  obtain ⟨h | h | h | ⟨h, hseen⟩ | ⟨h, h0, h1⟩, hrom⟩ := h
  · simp only [writeAccess, execWrite, h]; rfl
  · simp only [writeAccess, execWrite, h]; rfl
  · exact absurd h hrom
  · have hview : (s.priv || x.dbg) = true := by simpa using hseen
    simp only [writeAccess, execWrite, h, hview, if_true]; rfl
  · simp only [writeAccess, execWrite, h, zeroPageWrite, if_neg h0, if_neg h1, zeroPage_target (hzero h)]

theorem readAccess_of_seesDummy (h : seesDummy x s) : readAccess P x s = .reply .ok dummyByte s := by
  obtain ⟨hh, hpriv, hdbg⟩ := h
  simp [readAccess, execRead, hh, hpriv, hdbg]

theorem writeAccess_of_seesDummy (h : seesDummy x s) : writeAccess P x s = .reply .ok 0x00#8 s := by
  obtain ⟨hh, hpriv, hdbg⟩ := h
  simp [writeAccess, execWrite, hh, hpriv, hdbg]

theorem writeAccess_of_romRo (h : x.page.handler = .romRo) : writeAccess P x s = .reply .ok 0x00#8 s := by
  simp only [writeAccess, execWrite, h]

theorem readAccess_of_port (h : x.page.handler = .zp) {sel : PortReg} (ho : x.offset = portOffset sel) :
    readAccess P x s = .reply .ok (portValue s sel) s := by
  cases sel <;> simp only [readAccess, execRead, h, ho] <;> rfl

theorem writeAccess_of_port (h : x.page.handler = .zp) {sel : PortReg} (ho : x.offset = portOffset sel) :
    writeAccess P x s = .reply .ok 0x00#8 (portStore P sel x.data s) := by
  cases sel <;> simp only [writeAccess, execWrite, h, ho] <;> rfl

/-- The two handlers that reach the dispatcher, and with what layout and address (R139, R140). -/
theorem deviceOf_cases {layout : Layout} {a : IoLocal} (h : deviceOf P x s = some (layout, a)) :
    (x.page.handler = .ioLin ∧ layout = ioWindow (ioBase P) x.target ∧ a = ioLocal x.target) ∨
    (x.page.handler = .ioLegacy ∧ layout = s.ioLayout ∧ a = ioLocal x.target) := by
  unfold deviceOf at h
  split at h
  · next hh => cases h; exact .inl ⟨hh, rfl, rfl⟩
  · next hh => cases h; exact .inr ⟨hh, rfl, rfl⟩
  all_goals cases h

theorem readAccess_of_device {layout : Layout} {a : IoLocal} (h : deviceOf P x s = some (layout, a)) :
    readAccess P x s = .reply .ok (dispatcherAnswer layout a s) (afterIoRead layout a s) := by
  obtain ⟨hh, rfl, rfl⟩ | ⟨hh, rfl, rfl⟩ := deviceOf_cases h <;> simp only [readAccess, execRead, hh] <;> rfl

theorem writeAccess_of_device {layout : Layout} {a : IoLocal} (h : deviceOf P x s = some (layout, a)) :
    writeAccess P x s = .reply .ok 0x00#8 (ioWrite layout a x.data s) := by
  obtain ⟨hh, rfl, rfl⟩ | ⟨hh, rfl, rfl⟩ := deviceOf_cases h <;> simp only [writeAccess, execWrite, hh] <;> rfl

theorem readAccess_of_unmapped (h : x.page.handler = .unmapped) :
    readAccess P x s = unmappedAccess x.target x.pc false dummyByte s := by
  simp only [readAccess, execRead, h]; rfl

theorem writeAccess_of_unmapped (h : x.page.handler = .unmapped) :
    writeAccess P x s = unmappedAccess x.target x.pc true 0x00#8 s := by
  simp only [writeAccess, execWrite, h]; rfl

variable (P x s)

/-- What an access reaches: the store, the dummy view, a port register, the dispatcher, or nothing. -/
theorem access_classes :
    reachesStore x s ∨ seesDummy x s ∨ (x.page.handler = .zp ∧ ∃ sel, x.offset = portOffset sel) ∨
      (∃ layout a, deviceOf P x s = some (layout, a)) ∨ x.page.handler = .unmapped := by
  cases hh : x.page.handler with
  | ram | romRw | romRo => simp [reachesStore, hh]
  | priv =>
    by_cases hseen : s.priv = true ∨ x.dbg = true
    · exact .inl (.inr (.inr (.inr (.inl ⟨hh, hseen⟩))))
    · exact .inr (.inl ⟨hh, by simpa using hseen⟩)
  | ioLin | ioLegacy => simp [deviceOf, hh]
  | zp =>
    by_cases h0 : x.offset = 0#8
    · exact .inr (.inr (.inl ⟨rfl, .ddr, h0⟩))
    · by_cases h1 : x.offset = 1#8
      · exact .inr (.inr (.inl ⟨rfl, .data, h1⟩))
      · exact .inl (.inr (.inr (.inr (.inr ⟨hh, h0, h1⟩))))
  | unmapped => simp

end

/-! ### What an access reaches does not depend on the slots or the store -/

theorem reachesStore_congr {s t : State} (h : t.priv = s.priv) (x : Access) : reachesStore x t ↔ reachesStore x s := by
  rw [reachesStore, h, reachesStore]

theorem mayStore_congr {s t : State} (h : t.priv = s.priv) (x : Access) : mayStore x t ↔ mayStore x s := by
  rw [mayStore, reachesStore_congr h, mayStore]

theorem seesDummy_congr {s t : State} (h : t.priv = s.priv) (x : Access) : seesDummy x t ↔ seesDummy x s := by
  rw [seesDummy, h, seesDummy]

theorem deviceOf_congr {s t : State} (P : Params) (h : t.ioLayout = s.ioLayout) (x : Access) :
    deviceOf P x t = deviceOf P x s := by
  rw [deviceOf, h, deviceOf]

/-- The response of an operation that ended well (R104). -/
theorem respond_ok_byte (v : Byte) (s : State) :
    respond .ok v s = { s with rsp := some (0x00#8 ++ v), events := s.events ++ [.response (0x00#8 ++ v)] } := rfl

end Sys2Proof.AccessLaws
end

section
/-! The reset values (R39), the reset input (R310, R313), the idle step (R302), the halted block (R289), and that every step
answers (R80, R286). -/

namespace Sys2Proof.StepProofs

open Sys2Proof Sys2Proof.Machine Sys2Proof.EncodingProofs Sys2Proof.AccessLaws

/-! ### What a step takes -/

theorem runRequest_of_ok (meaning : Instr → State → Result) {w : Request} {i : Instr} (h : decode w = .ok i) (s : State) :
    runRequest meaning w s = meaning i s := by
  rw [runRequest, h]

/-- A request is an operation's meaning or the illegal operation (R103). -/
theorem runRequest_cases (meaning : Instr → State → Result) (w : Request) (s : State) :
    (∃ i, runRequest meaning w s = meaning i s) ∨ runRequest meaning w s = illegalOperation s := by
  obtain ⟨i, hi, -⟩ | ⟨hillegal, -⟩ := decode_cases w
  · exact .inl ⟨i, runRequest_of_ok meaning hi s⟩
  · exact .inr (runRequest_of_illegal meaning hillegal s)

/-- Settles O5: the request is taken, and the decoder's answer picks the meaning. -/
theorem stepRunsDecodedOperation : Obligations.StepRunsDecodedOperation := by
  intro s w rest i hinbox _ hdecode
  rw [step, nextInput_request hinbox, runRequest_of_ok exec hdecode, takeRequest]

/-- Settles O6: `nextInput` with nothing to take. -/
theorem idleStepHoldsState : Obligations.IdleStepHoldsState :=
  fun _ h => nextInput_idle h

/-! ### Every step answers -/

theorem operate_answers (f : State → State) (s : State) : ∃ t, operate f s = .next t := by
  obtain ⟨-, h⟩ | ⟨-, h⟩ := operate_cases f s <;> exact ⟨_, h⟩

theorem stepAt_answers (P : Params) (s : State) : ∃ t, stepAt P s = .next t := by
  obtain ⟨-, h⟩ | ⟨_, -, h⟩ | ⟨w, rest, -, h⟩ := nextInput_cases P (execAt P) s <;> rw [stepAt, h]
  · exact ⟨_, rfl⟩
  · exact ⟨_, rfl⟩
  · obtain ⟨i, hi⟩ | hi := runRequest_cases (execAt P) w (takeRequest w rest s) <;> rw [hi]
    · obtain ⟨t, ht, -⟩ := exists_effect P i (takeRequest w rest s)
      exact ⟨t, ht⟩
    · exact operate_answers _ _

/-- Settles O55: `stepAt_answers` at the default parameters. -/
theorem everyStepAnswers : Obligations.EveryStepAnswers :=
  fun s => stepAt_params s ▸ stepAt_answers params s

/-! ### The halted block -/

/-- A request presented to a halted block is taken and recorded, legal or not, and nothing else happens (R289). -/
theorem step_request_of_halted {s : State} (hrun : s.run ≠ .running) {w : Request} {rest : List Input}
    (hinbox : s.inbox = .request w :: rest) :
    step s = .next { s with inbox := rest, rsp := none, events := s.events ++ [.request w] } := by
  rw [step, nextInput_request hinbox]
  obtain ⟨i, h⟩ | h := runRequest_cases exec w (takeRequest w rest s) <;> rw [h]
  · rw [← execAt_params]
    exact execAt_halted i hrun
  · obtain ⟨hr, -⟩ | ⟨-, h⟩ := operate_cases (fun s => respond .illegalOp 0x00#8 s) (takeRequest w rest s)
    · exact absurd hr hrun
    · rw [illegalOperation, h]; rfl

/-- Settles O8: an idle step and a request leave `run` as it is, so a step that changes it takes `reset`. -/
theorem haltedBlockIgnoresRequests : Obligations.HaltedBlockIgnoresRequests := by
  intro s reason addr pc hhalted
  have hrun : s.run ≠ .running := by simp [hhalted]
  refine ⟨fun i => ?_, fun w rest => step_request_of_halted hrun, fun t ht hchanged => ?_, fun P rest hinbox => ?_⟩
  · rw [← execAt_params]
    exact execAt_halted i hrun
  · obtain ⟨-, h⟩ | ⟨rest, hreset, -⟩ | ⟨w, rest, hinbox, -⟩ := nextInput_cases params exec s
    · rw [step, h] at ht
      cases ht
      exact absurd rfl hchanged
    · exact ⟨rest, hreset⟩
    · rw [step_request_of_halted hrun hinbox] at ht
      cases ht
      exact absurd rfl hchanged
  · exact ⟨_, nextInput_reset hinbox, rfl⟩

/-! ### Reset -/

theorem reset_run : State.reset.run = .running := by
  simp [State.reset, selfCheck_default]

/-- Settles O9: each field of the reset state; nothing is resolved, and the default table passes its self-check. -/
theorem resetValues : Obligations.ResetValues :=
  ⟨rfl, rfl, rfl, rfl, rfl, rfl, rfl, rfl, rfl, rfl, rfl, rfl, fun _ => rfl, fun k => specialGet_unresolved k, rfl,
    reset_run⟩

/-- Settles O10: `applyReset` writes what `State.reset` holds, `run` by the same self-check. -/
theorem resetInputRestoresResetState : Obligations.ResetInputRestoresResetState :=
  fun _ _ hinbox => nextInput_reset hinbox

/-- Settles O11: the self-check enters `run` alone, by `runAfterReset`. -/
theorem selfCheckDecidesRunAtReset : Obligations.SelfCheckDecidesRunAtReset := by
  intro P s rest hinbox
  refine ⟨_, nextInput_reset hinbox, fun h => if_pos h, fun h => if_neg (by simp [h]), rfl⟩

end Sys2Proof.StepProofs
end

section
/-! The thirteen access operations, by what the address reaches (R134 to R142, R245, R246, R284). -/

namespace Sys2Proof.AccessProofs

open Sys2Proof Sys2Proof.Machine Sys2Proof.AccessLaws Sys2Proof.MemoryProofs Sys2Proof.BankPolicyProofs

/-! ### Reads -/

/-- Settles O33: the handler answers the stored byte, which filling the slot has not touched. -/
theorem readAnswersStoredByte : Obligations.ReadAnswersStoredByte := by
  intro i s x hi hrun ht hx hreaches
  have hfilled : reachesStore x (slotFilled params i s) := (reachesStore_congr (by simp) x).2 hreaches
  rw [exec_read hi hrun ht hx, readAccess_of_reachesStore (zeroPageAtZero_of_accessOf hx) hfilled, finish,
    respond_ok_byte, memRead_congr params (slotFilled_mem params i s), slotFilled_events]

/-- Settles O34: the zero-page handler answers the register of the offset, which filling the slot has not touched. -/
theorem readOfPortAnswersRegister : Obligations.ReadOfPortAnswersRegister := by
  intro i s x v hi hrun ht hx hzp hport
  have hsel : ∃ sel, x.offset = portOffset sel ∧ v = portValue (slotFilled params i s) sel := by
    obtain ⟨ho, rfl⟩ | ⟨ho, rfl⟩ := hport
    · exact ⟨.ddr, ho, (slotFilled_portDdr params i s).symm⟩
    · exact ⟨.data, ho, (slotFilled_portData params i s).symm⟩
  obtain ⟨sel, ho, rfl⟩ := hsel
  rw [exec_read hi hrun ht hx, readAccess_of_port hzp ho, finish, respond_ok_byte, slotFilled_events]

/-- Settles O35: the privileged-only handler answers the dummy byte. -/
theorem readInNormalModeSeesDummy : Obligations.ReadInNormalModeSeesDummy := by
  intro i s x hi hrun ht hx hdummy
  have hfilled : seesDummy x (slotFilled params i s) := (seesDummy_congr (by simp) x).2 hdummy
  rw [exec_read hi hrun ht hx, readAccess_of_seesDummy hfilled, finish, respond_ok_byte, slotFilled_events]
  rfl

/-- The dispatcher's next answer is the scripted one, or the free value (log entry 3). -/
theorem dispatcherAnswer_eq {layout : Layout} {a : IoLocal} {v : Byte} {s : State}
    (h : (∃ rest, s.ioAnswers = v :: rest) ∨ s.ioAnswers = [] ∧ v = Config.ioAnswer s.events layout a) :
    dispatcherAnswer layout a s = v := by
  obtain ⟨rest, h⟩ | ⟨h, rfl⟩ := h <;> simp [dispatcherAnswer, h]

/-- Settles O36: the handler asks the dispatcher with the layout and the address that `deviceOf` names. -/
theorem readOfDeviceAsksDispatcher : Obligations.ReadOfDeviceAsksDispatcher := by
  intro i s x layout a v hi hrun ht hx hdevice hanswer
  have hfilled : deviceOf params x (slotFilled params i s) = some (layout, a) :=
    (deviceOf_congr params (slotFilled_ioLayout params i s) x).trans hdevice
  have hv : dispatcherAnswer layout a (slotFilled params i s) = v := dispatcherAnswer_eq (by simpa using hanswer)
  rw [exec_read hi hrun ht hx, readAccess_of_device hfilled, finish, respond_ok_byte, afterIoRead, hv]
  simp [emit]

/-! ### Writes -/

/-- A write that stores: what is left of it is the write of one byte and the response. -/
theorem exec_write_of_mayStore {i : Instr} {s : State} {x : Access} (hi : isAccessWrite i = true)
    (hrun : s.run = .running) (ht : transparent params s) (hx : accessOf params i s = some x) (hstore : mayStore x s) :
    exec i s = .next (respond .ok 0x00#8 (memWrite params x.target x.data (slotFilled params i s))) := by
  have hfilled : mayStore x (slotFilled params i s) := (mayStore_congr (by simp) x).2 hstore
  rw [exec_write hi hrun ht hx, writeAccess_of_mayStore (zeroPageAtZero_of_accessOf hx) hfilled, finish]

/-- What reads see after such a write. -/
theorem memRead_respond_memWrite (P : Params) (j l : LinAddr) (v b : Byte) (st : Status) {s u : State}
    (hmem : u.mem = s.mem) :
    memRead P j (respond st b (memWrite P l v u)) =
      if canon P.regionTable j.toNat = canon P.regionTable l.toNat then v else memRead P j s := by
  rw [memRead_congr P (respond_mem st b _), memRead_memWrite, memRead_congr P hmem]

/-- Settles O37: the write is `memWrite` at the target, and `memRead_memWrite` says what every address reads then. -/
theorem writeStoresByte : Obligations.WriteStoresByte := by
  intro i s x hi hrun ht hx hstore
  have hread := fun j => memRead_respond_memWrite params j x.target x.data 0x00#8 .ok (slotFilled_mem params i s)
  refine ⟨_, exec_write_of_mayStore hi hrun ht hx hstore, ?_, ?_, fun l hl => ?_⟩
  · rw [respond_ok]; simp [memWrite]
  · rw [hread, if_pos rfl]
  · rw [hread, if_neg hl]

/-- Settles O38: both handlers answer `OK` on the state as it is. -/
theorem forbiddenWriteIsDropped : Obligations.ForbiddenWriteIsDropped := by
  intro i s x hi hrun ht hx hforbidden
  have hdropped : writeAccess params x (slotFilled params i s) = .reply .ok 0x00#8 (slotFilled params i s) := by
    obtain hrom | hdummy := hforbidden
    · exact writeAccess_of_romRo hrom
    · exact writeAccess_of_seesDummy ((seesDummy_congr (by simp) x).2 hdummy)
  rw [exec_write hi hrun ht hx, hdropped, finish, respond_ok, slotFilled_events]

/-- Settles O41: the handler hands the byte over with the layout and the address that `deviceOf` names. -/
theorem writeOfDeviceCallsDispatcher : Obligations.WriteOfDeviceCallsDispatcher := by
  intro i s x layout a hi hrun ht hx hdevice
  have hfilled : deviceOf params x (slotFilled params i s) = some (layout, a) :=
    (deviceOf_congr params (slotFilled_ioLayout params i s) x).trans hdevice
  rw [exec_write hi hrun ht hx, writeAccess_of_device hfilled, finish, respond_ok, ioWrite]
  simp [emit]

end Sys2Proof.AccessProofs
end

section
/-! The slot cache stays transparent (R230), whatever the parameters: each update of the state either leaves alone what
resolution reads, or invalidates every slot whose resolution it changes. -/

namespace Sys2Proof.TransparencyProofs

open Sys2Proof Sys2Proof.Machine Sys2Proof.AccessLaws Sys2Proof.ExtendedMapProofs Sys2Proof.StepProofs

/-! ### What an invariant of a step has to be kept by -/

/-- An invariant that says nothing of the inputs, the response and the history is kept by every step when every operation
and the reset input keep it. -/
theorem stepAt_keeps {P : Params} {I : State → Prop}
    (hboundary : ∀ s inbox rsp events, I s → I { s with inbox := inbox, rsp := rsp, events := events })
    (hreset : ∀ s, I s → I (applyReset P s)) (hexec : ∀ i s t, I s → execAt P i s = .next t → I t)
    {s t : State} (hs : I s) (h : stepAt P s = .next t) : I t := by
  obtain ⟨-, hstep⟩ | ⟨rest, -, hstep⟩ | ⟨w, rest, -, hstep⟩ := nextInput_cases P (execAt P) s <;> rw [stepAt, hstep] at h
  · cases h
    exact hs
  · cases h
    exact hreset _ (hboundary s rest s.rsp s.events hs)
  · have htaken : I (takeRequest w rest s) := hboundary s rest s.rsp _ hs
    obtain ⟨i, hi⟩ | hillegal := runRequest_cases (execAt P) w (takeRequest w rest s)
    · exact hexec i _ t htaken (hi ▸ h)
    · rw [hillegal, illegalOperation] at h
      obtain ⟨-, ho⟩ | ⟨-, ho⟩ := operate_cases (fun s => respond .illegalOp 0x00#8 s) (takeRequest w rest s) <;>
        rw [ho] at h <;> cases h
      · exact hboundary (takeRequest w rest s) rest (some _) _ htaken
      · exact hboundary (takeRequest w rest s) rest none _ htaken

/-! ### What resolution reads -/

/-- The registers that `ResolveCpuPage` and `ResolveLinearPage` read (R132, R217). -/
def resolutionInputs (s : State) : MapConfig × Bool × Byte × Byte × BitVec 4 × Bool :=
  (s.map, s.romWp, s.portDdr, s.portData, s.romvis, s.priv)

theorem resolveCpuPage_of_inputs {P : Params} {s t : State} (h : resolutionInputs t = resolutionInputs s) (p : PageNo) :
    resolveCpuPage P t p = resolveCpuPage P s p := by
  simp only [resolutionInputs, Prod.mk.injEq] at h
  obtain ⟨hmap, hwp, hddr, hdata, hromvis, hpriv⟩ := h
  exact resolveCpuPage_same P hmap hwp hddr hdata hromvis hpriv p

/-- The cache is transparent and in canonical form. -/
def CacheOk (P : Params) (s : State) : Prop := pagesWf s ∧ transparent P s

/-- Slots that were resolved before, and whose resolution is the same now, are transparent now. -/
theorem transparent_of_kept {P : Params} {s t : State} (h : transparent P s)
    (hpages : ∀ p r, pslotAt p t = some r → pslotAt p s = some r ∧ resolveCpuPage P t p = resolveCpuPage P s p)
    (hspecials : ∀ k r, sslotAt k t = some r →
      sslotAt k s = some r ∧ resolveLinearPage P t.romWp r.base = resolveLinearPage P s.romWp r.base) :
    transparent P t := by
  refine ⟨fun p r hr => ?_, fun k r hr => ?_⟩
  · obtain ⟨hbefore, hsame⟩ := hpages p r hr
    rw [hsame]
    exact h.1 p r hbefore
  · obtain ⟨hbefore, hsame⟩ := hspecials k r hr
    rw [hsame]
    exact h.2 k r hbefore

theorem cacheOk_congr {P : Params} {s t : State} (hinputs : resolutionInputs t = resolutionInputs s)
    (hpages : t.pslots = s.pslots) (hspecials : t.sslots = s.sslots) (h : CacheOk P s) : CacheOk P t := by
  have hwp : t.romWp = s.romWp := congrArg (fun e => e.2.1) hinputs
  refine ⟨pagesWf_congr hpages h.1, transparent_of_kept h.2 (fun p r hr => ?_) fun k r hr => ?_⟩
  · exact ⟨pslotAt_congr hpages p ▸ hr, resolveCpuPage_of_inputs hinputs p⟩
  · exact ⟨sslotAt_congr hspecials k ▸ hr, by rw [hwp]⟩

/-! ### The invalidations -/

/-- `BankUpdate` (R168) after a change of the bank view from that of `s`: a page slot that is left does not lie in a zone
whose entry changed. -/
theorem cacheOk_bankUpdate {P : Params} {s u : State} (h : CacheOk P s) (hw : pagesWf u)
    (hpages : ∀ p r, pslotAt p u = some r → pslotAt p s = some r)
    (hspecials : ∀ k r, sslotAt k u = some r → sslotAt k s = some r) (hmap : u.map = s.map) (hwp : u.romWp = s.romWp) :
    CacheOk P (bankUpdate P (currentBank P s) u) := by
  refine ⟨pagesWf_bankUpdate P _ hw, transparent_of_kept h.2 (fun p r hr => ?_) fun k r hr => ?_⟩
  · obtain ⟨hbefore, hkept⟩ := pslotAt_invalidatePages_some hw.1 hr
    refine ⟨hpages p r hbefore, resolveCpuPage_congr P p (by simp [hmap]) hwp fun hbanked => ?_⟩
    rw [hbanked, Bool.true_and, decide_eq_false_iff_not, not_not] at hkept
    exact hkept.symm
  · exact ⟨hspecials k r hr, by rw [bankUpdate_romWp, hwp]⟩

/-- What is resolved after an invalidation of page and special slots was so before, and was not selected (R214). -/
theorem invalidateAll_kept (sel : Resolved → Bool) {s : State} (hw : pagesWf s) :
    (∀ p r, pslotAt p (invalidateAll sel s) = some r → pslotAt p s = some r ∧ sel r = false) ∧
    (∀ k r, sslotAt k (invalidateAll sel s) = some r → sslotAt k s = some r ∧ sel r = false) :=
  ⟨fun _ _ h => pslotAt_invalidatePages_some (sel := fun _ r => sel r) hw.1 h,
    fun _ _ h => sslotAt_invalidateSpecials_some (s := invalidatePages (fun _ r => sel r) s) h⟩

/-- What is resolved after the invalidation of a `PRIV_SET` was so before. -/
theorem privInvalidate_kept (b : Bool) {s : State} (hw : pagesWf s) :
    (∀ p r, pslotAt p (privInvalidate b s) = some r → pslotAt p s = some r) ∧
    (∀ k r, sslotAt k (privInvalidate b s) = some r → sslotAt k s = some r) := by
  unfold privInvalidate
  split
  · exact ⟨fun _ _ h => h, fun _ _ h => h⟩
  · obtain ⟨hpages, hspecials⟩ := invalidateAll_kept (fun r => r.privDep) hw
    exact ⟨fun p r h => (hpages p r h).1, fun k r h => (hspecials k r h).1⟩

/-- What is resolved after the invalidation of a `ROMWP_SET` that changes the protection was so before, and is no shadow
ROM. -/
theorem romwpInvalidate_kept {w : Bool} {s : State} (hchanged : w ≠ s.romWp) (hw : pagesWf s) :
    (∀ p r, pslotAt p (romwpInvalidate w s) = some r → pslotAt p s = some r ∧ r.kind ≠ .shadowRom) ∧
    (∀ k r, sslotAt k (romwpInvalidate w s) = some r → sslotAt k s = some r ∧ r.kind ≠ .shadowRom) := by
  rw [romwpInvalidate, if_neg hchanged]
  obtain ⟨hpages, hspecials⟩ := invalidateAll_kept (fun r => decide (r.kind = .shadowRom)) hw
  refine ⟨fun p r h => ?_, fun k r h => ?_⟩
  · obtain ⟨hbefore, hkind⟩ := hpages p r h
    exact ⟨hbefore, of_decide_eq_false hkind⟩
  · obtain ⟨hbefore, hkind⟩ := hspecials k r h
    exact ⟨hbefore, of_decide_eq_false hkind⟩

/-- A page that does not resolve into shadow ROM resolves alike under both settings of the write protection (R132). -/
theorem resolveCpuPage_wp {P : Params} {s : State} {p : PageNo} (h : (resolveCpuPage P s p).kind ≠ .shadowRom)
    (w : Bool) : resolveCpuPage P { s with romWp := w } p = resolveCpuPage P s p := by
  have hbank : currentBank P { s with romWp := w } = currentBank P s := rfl
  unfold resolveCpuPage resolveBanked at h ⊢
  rw [hbank]
  cases hentry : mapEntry s.map (pageBlock p) with
  | some e =>
    simp only [hentry] at h ⊢
    exact resolveLinearPage_wp h _ _
  | none =>
    simp only [hentry] at h ⊢
    split
    · rfl
    · next hnotzero =>
      rw [if_neg hnotzero] at h
      split
      · next hbanked =>
        rw [if_pos hbanked] at h
        cases hview : currentBank P s (pageZone p) with
        | ram | shadowRom =>
          simp only [hview] at h ⊢
          exact resolveLinearPage_wp h _ _
        | legacyIo => rfl
      · next hbanked =>
        rw [if_neg hbanked] at h
        exact resolveLinearPage_wp h _ _

/-! ### The operations -/

theorem cacheOk_portStore {P : Params} {s : State} (sel : PortReg) (v : Byte) (h : CacheOk P s) :
    CacheOk P (portStore P sel v s) := by
  have hpages : (putPort sel v s).pslots = s.pslots := putPort_pslots sel v s
  have hspecials : (putPort sel v s).sslots = s.sslots := putPort_sslots sel v s
  exact cacheOk_bankUpdate h (pagesWf_congr hpages h.1) (fun p r hr => pslotAt_congr hpages p ▸ hr)
    (fun k r hr => sslotAt_congr hspecials k ▸ hr) (putPort_map sel v s) (putPort_romWp sel v s)

theorem cacheOk_privSet {P : Params} {s : State} (b : Bool) (h : CacheOk P s) :
    CacheOk P (bankUpdate P (currentBank P s) { privInvalidate b s with priv := b }) := by
  obtain ⟨hpages, hspecials⟩ := privInvalidate_kept b h.1
  exact cacheOk_bankUpdate h (pagesWf_congr rfl (BankPolicyProofs.pagesWf_privInvalidate b h.1)) hpages hspecials
    (privInvalidate_map b s) (privInvalidate_romWp b s)

/-- A page of a `MAP_APPLY` that is left lies in a block whose entry is what it was (R195). -/
theorem cacheOk_mapApply {P : Params} {s : State} (m : MapConfig) (h : CacheOk P s) :
    CacheOk P (invalidatePages (fun p _ => remapInvalidates s.map m p) { s with map := m, irqInhibit := true }) := by
  refine ⟨pagesWf_invalidatePages _ (pagesWf_congr rfl h.1),
    transparent_of_kept h.2 (fun p r hr => ?_) fun k r hr => ⟨hr, rfl⟩⟩
  obtain ⟨hbefore, hkept⟩ := pslotAt_invalidatePages_some (s := { s with map := m, irqInhibit := true }) h.1.1 hr
  have hnot := mt (remapInvalidates_iff s.map m p).2 (by simp [hkept])
  rw [not_or, not_not] at hnot
  exact ⟨hbefore, resolveCpuPage_congr P p hnot.2.symm rfl fun _ => rfl⟩

theorem cacheOk_mapCommit {P : Params} {s : State} (h : CacheOk P s) :
    CacheOk P (invalidatePages (fun p _ => pageHigh p) { s with irqInhibit := false }) := by
  refine ⟨pagesWf_invalidatePages _ (pagesWf_congr rfl h.1),
    transparent_of_kept h.2 (fun p r hr => ?_) fun k r hr => ⟨hr, rfl⟩⟩
  obtain ⟨hbefore, -⟩ := pslotAt_invalidatePages_some (s := { s with irqInhibit := false }) h.1.1 hr
  exact ⟨hbefore, resolveCpuPage_of_inputs rfl p⟩

/-- A change of the write protection leaves the slots that it does not matter to (R180). -/
theorem cacheOk_romwpSet {P : Params} {s : State} (w : Bool) (h : CacheOk P s) :
    CacheOk P { romwpInvalidate w s with romWp := w } := by
  by_cases hw : w = s.romWp
  · subst hw
    rw [romwpInvalidate, if_pos rfl]
    exact h
  · obtain ⟨hpages, hspecials⟩ := romwpInvalidate_kept hw h.1
    refine ⟨?_, transparent_of_kept h.2 (fun p r hr => ?_) fun k r hr => ?_⟩
    · rw [romwpInvalidate, if_neg hw]
      exact pagesWf_congr rfl (pagesWf_invalidatePages (fun _ r => decide (r.kind = .shadowRom)) h.1)
    · obtain ⟨hbefore, hkind⟩ := hpages p r hr
      have hresolved : r = resolveCpuPage P s p := h.2.1 p r hbefore
      have hinputs :
          resolutionInputs { romwpInvalidate w s with romWp := w } = resolutionInputs { s with romWp := w } := by
        simp [resolutionInputs]
      exact ⟨hbefore, (resolveCpuPage_of_inputs hinputs p).trans (resolveCpuPage_wp (hresolved ▸ hkind) w)⟩
    · obtain ⟨hbefore, hkind⟩ := hspecials k r hr
      have hbase : r.kind = kindAt P.regionTable r.base.toNat := congrArg Resolved.kind (h.2.2 k r hbefore)
      exact ⟨hbefore, resolveLinearPage_wp (hbase ▸ hkind) _ _⟩

theorem cacheOk_configured {P : Params} {s : State} (i : Instr) (h : CacheOk P s) : CacheOk P (configured P i s) := by
  cases i with
  | portWrite sel v => exact cacheOk_portStore sel v h
  | romselWrite rv => exact cacheOk_bankUpdate h (pagesWf_congr rfl h.1) (fun _ _ hr => hr) (fun _ _ hr => hr) rfl rfl
  | privSet b => exact cacheOk_privSet b h
  | mapApply a x y z => exact cacheOk_mapApply _ h
  | mapCommit => exact cacheOk_mapCommit h
  | romwpSet w => exact cacheOk_romwpSet w h
  | layoutSet l => exact cacheOk_congr rfl rfl rfl h
  | _ => exact h

/-- All a handler's writer can do to the registers and the slots (R143): nothing, or the write of a port register. -/
theorem finish_writeAccess_cases (P : Params) (x : Access) (s : State) :
    (∃ b m n c p e, finish (writeAccess P x s) =
      { s with mem := b, unmappedMode := m, run := n, choices := c, rsp := p, events := e }) ∨
    ∃ sel, finish (writeAccess P x s) = respond .ok 0x00#8 (portStore P sel x.data s) := by
  unfold writeAccess
  obtain h | ⟨-, h⟩ | ⟨-, -, -, h⟩ | ⟨-, sel, h⟩ | ⟨_, _, h⟩ | ⟨-, h⟩ :=
    execWrite_cases P x.page x.offset x.data x.dbg x.pc s <;> rw [h]
  · exact .inl ⟨_, _, _, _, _, _, rfl⟩
  · exact .inl ⟨_, _, _, _, _, _, rfl⟩
  · exact .inl ⟨_, _, _, _, _, _, rfl⟩
  · exact .inr ⟨sel, rfl⟩
  · exact .inl ⟨_, _, _, _, _, _, rfl⟩
  · obtain ⟨_, _, _, _, _, hu⟩ := finish_unmapped_frame (atOffset x.page.base x.offset) x.pc true 0x00#8 s
    rw [hu]
    exact .inl ⟨_, _, _, _, _, _, rfl⟩

theorem cacheOk_execAt {P : Params} {i : Instr} {s t : State} (h : CacheOk P s) (hexec : execAt P i s = .next t) :
    CacheOk P t := by
  have hfilled : CacheOk P (slotFilled P i s) := ⟨pagesWf_slotFilled P i h.1, transparent_slotFilled i h.2⟩
  cases effect_of_transparent h.2 hexec with
  | halted => exact cacheOk_congr rfl rfl rfl h
  | configuration => exact cacheOk_congr rfl rfl rfl (cacheOk_configured i h)
  | impossible => exact cacheOk_congr rfl rfl rfl h
  | read _ _ x u hx =>
    obtain ⟨-, rfl⟩ := hx
    obtain ⟨_, _, _, _, _, _, hread⟩ := finish_execRead_frame P x.page x.offset x.dbg x.pc (slotFilled P i s)
    rw [readAccess, hread]
    exact cacheOk_congr rfl rfl rfl hfilled
  | write _ _ x u hx =>
    obtain ⟨-, rfl⟩ := hx
    obtain ⟨_, _, _, _, _, _, hwrite⟩ | ⟨sel, hwrite⟩ := finish_writeAccess_cases P x (slotFilled P i s) <;> rw [hwrite]
    · exact cacheOk_congr rfl rfl rfl hfilled
    · exact cacheOk_congr rfl rfl rfl (cacheOk_portStore sel x.data hfilled)

/-- Settles O56: `CacheOk` is kept by every operation, holds with nothing resolved, as `reset` leaves the cache, and says
nothing of what crosses the boundary. -/
theorem transparencyIsKept : Obligations.TransparencyIsKept := by
  intro P s t hw ht h
  have hreset : ∀ s, CacheOk P s → CacheOk P (applyReset P s) := fun _ _ =>
    ⟨pagesWf_of_unresolved rfl, transparent_of_unresolved P rfl rfl⟩
  exact stepAt_keeps (I := CacheOk P) (fun _ _ _ _ h => cacheOk_congr rfl rfl rfl h) hreset
    (fun _ _ _ h hexec => cacheOk_execAt h hexec) ⟨hw, ht⟩ h

end Sys2Proof.TransparencyProofs
end

section
/-! Where an access can store: what the page's kind says of its handler (R62, R132), and of the address it reaches (R64(a),
R133); the block's invariant (R33, R193, R230) and the two protections of the store (R136, R138, R295, R297). -/

namespace Sys2Proof.StoreProofs

open Sys2Proof Sys2Proof.Machine Sys2Proof.AccessLaws Sys2Proof.MemoryProofs Sys2Proof.TransparencyProofs

/-! ### The page an access reaches -/

section
variable {P : Params} {s : State}

/-- What a CPU page resolves to, with the alignment that the invariants of the parameters give it (R164(d), R193, R217). -/
theorem resolveCpuPage_aligned (hbank : bankTableOk P.bankTable) (hmap : offsetsAligned s.map) (p : PageNo) :
    resolveCpuPage P s p = zeroPage ∨ resolveCpuPage P s p = legacyIoPage P p ∨
      ∃ b, baseAligned b ∧ resolveCpuPage P s p = resolveLinearPage P s.romWp b := by
  obtain ⟨-, hshadow, -⟩ := hbank
  unfold resolveCpuPage
  split
  · next e hentry =>
    refine .inr (.inr ⟨_, mapTranslate_aligned _ ?_ p, rfl⟩)
    unfold mapEntry at hentry
    split at hentry
    · cases hentry
    · split at hentry <;> cases hentry
      · exact hmap.1
      · exact hmap.2
  · split
    · exact .inl rfl
    · split
      · unfold resolveBanked
        split
        · exact .inr (.inr ⟨_, pageIdentity_aligned p, rfl⟩)
        · next base hview =>
          have hbase : base.toNat % 0x1000 = 0 := hshadow _ _ _ _ hview
          refine .inr (.inr ⟨_, baseAligned_add ?_ (pageInZone_aligned p), rfl⟩)
          rw [baseAligned_iff]
          omega
        · exact .inr (.inl rfl)
      · exact .inr (.inr ⟨_, pageIdentity_aligned p, rfl⟩)

/-- The page of an access that ends in the store is the zero page or an aligned linear page. -/
theorem page_of_reachesStore (hbank : bankTableOk P.bankTable) (hmap : offsetsAligned s.map) {i : Instr} {x : Access}
    (hx : accessOf P i s = some x) (hreaches : reachesStore x s) :
    x.page = zeroPage ∨ ∃ b, baseAligned b ∧ x.page = resolveLinearPage P s.romWp b := by
  obtain ⟨p, hp⟩ | ⟨a, ha⟩ := accessOf_page hx
  · obtain hzero | hlegacy | hlinear := resolveCpuPage_aligned hbank hmap p <;> rw [hp]
    · exact .inl hzero
    · simp [reachesStore, hp, hlegacy, legacyIoPage] at hreaches
    · exact .inr hlinear
  · exact .inr ⟨_, linearPage_aligned a, ha⟩

theorem kindAt_zeroPage {table : List Region} (h : selfCheck table = true) (o : Byte) :
    kindAt table (o.setWidth 28 : LinAddr).toNat = .mainRam := by
  obtain ⟨_, _, _, _, _, _, _, _, _, hlow⟩ := selfCheck_parts h
  have hzero : kindAt table 0 = .mainRam := by
    simp only [tableLowPages, Bool.and_eq_true, decide_eq_true_eq] at hlow
    exact hlow.1.2
  have hpage := kindAt_page h (b := 0) (by decide) rfl o.isLt
  rwa [Nat.zero_add, hzero, ← BitVec.toNat_setWidth_of_le (by decide : 8 ≤ 28)] at hpage

/-- R62, R132: an access that ends in the store reaches an address of its page's kind; either it is the zero page in main
RAM, or the kind decides the handler. -/
theorem kind_of_reachesStore (hP : paramsOk P) (hmap : offsetsAligned s.map) {i : Instr} {x : Access}
    (hx : accessOf P i s = some x) (hreaches : reachesStore x s) :
    kindAt P.regionTable x.target.toNat = x.page.kind ∧
      (x.page = zeroPage ∨ x.page.handler = handlerOf x.page.kind s.romWp) := by
  obtain ⟨hcheck, hbank, -⟩ := hP
  obtain hzero | ⟨b, hb, hlinear⟩ := page_of_reachesStore hbank hmap hx hreaches
  · rw [zeroPage_target hzero, kindAt_zeroPage hcheck, hzero]
    exact ⟨rfl, .inl rfl⟩
  · have htarget : x.target.toNat = b.toNat + x.offset.toNat := by
      rw [Access.target, hlinear]
      exact atOffset_toNat hb x.offset
    rw [htarget, kindAt_page hcheck b.isLt ((baseAligned_iff b).1 hb) x.offset.isLt, hlinear]
    exact ⟨rfl, .inr rfl⟩

/-- What the store is reached through is a region that holds bytes (R62). -/
theorem storageBacked_of_reachesStore (hP : paramsOk P) (hmap : offsetsAligned s.map) {i : Instr} {x : Access}
    (hx : accessOf P i s = some x) (hreaches : reachesStore x s) :
    storageBacked (kindAt P.regionTable x.target.toNat) = true := by
  obtain ⟨hkind, hzero | hhandler⟩ := kind_of_reachesStore hP hmap hx hreaches <;> rw [hkind]
  · rw [hzero]
    rfl
  · cases hk : x.page.kind with
    | io | cartridge | unmapped => simp [reachesStore, hhandler, hk, handlerOf] at hreaches
    | _ => rfl

end

/-! ### What an operation does to the store -/

/-- The store after a write: one byte at the access's address, or as it was (R134 to R138, R245). -/
theorem finish_writeAccess_mem {P : Params} {x : Access} {s : State} (hzero : ZeroPageAtZero x) :
    (mayStore x s ∧ (finish (writeAccess P x s)).mem = (memWrite P x.target x.data s).mem) ∨
      (finish (writeAccess P x s)).mem = s.mem := by
  obtain hreaches | hdummy | ⟨hzp, sel, ho⟩ | ⟨layout, a, hdevice⟩ | hunmapped := access_classes P x s
  · by_cases hrom : x.page.handler = .romRo
    · rw [writeAccess_of_romRo hrom]
      exact .inr rfl
    · rw [writeAccess_of_mayStore hzero ⟨hreaches, hrom⟩]
      exact .inl ⟨⟨hreaches, hrom⟩, rfl⟩
  · rw [writeAccess_of_seesDummy hdummy]
    exact .inr rfl
  · rw [writeAccess_of_port hzp ho]
    exact .inr (portStore_mem P sel x.data s)
  · rw [writeAccess_of_device hdevice]
    exact .inr rfl
  · obtain ⟨_, _, _, _, _, h⟩ := finish_unmapped_frame x.target x.pc true 0x00#8 s
    rw [writeAccess_of_unmapped hunmapped, h]
    exact .inr rfl

theorem finish_readAccess_mem (P : Params) (x : Access) (s : State) : (finish (readAccess P x s)).mem = s.mem := by
  obtain ⟨_, _, _, _, _, _, h⟩ := finish_execRead_frame P x.page x.offset x.dbg x.pc s
  rw [readAccess, h]

/-- Settles O45: of what an operation can do, an access write alone goes to the store. -/
theorem onlyAccessWritesChangeStore : Obligations.OnlyAccessWritesChangeStore := by
  intro i s t hi h
  cases effect_of_exec h with
  | halted | impossible => rfl
  | configuration => rw [respond_mem, configured_mem]
  | read _ _ x u hx =>
    obtain ⟨_, _, rfl⟩ := hx
    exact finish_readAccess_mem params x _
  | write _ hwrite => simp [hi] at hwrite

/-- With a transparent cache the store changes by one byte, at the address of an access that may store, or not at all. -/
theorem execAt_mem {P : Params} {i : Instr} {s t : State} (ht : transparent P s) (h : execAt P i s = .next t) :
    (∃ x, accessOf P i s = some x ∧ mayStore x s ∧ t.mem = (memWrite P x.target x.data s).mem) ∨ t.mem = s.mem := by
  cases effect_of_transparent ht h with
  | halted | impossible => exact .inr rfl
  | configuration => exact .inr (configured_mem P i s)
  | read _ _ x u hx =>
    obtain ⟨-, rfl⟩ := hx
    exact .inr ((finish_readAccess_mem P x _).trans (slotFilled_mem P i s))
  | write _ _ x u hx =>
    obtain ⟨hx, rfl⟩ := hx
    obtain ⟨hstore, hmem⟩ | hmem :=
      finish_writeAccess_mem (P := P) (s := slotFilled P i s) (zeroPageAtZero_of_accessOf hx) <;> rw [hmem]
    · exact .inl ⟨x, hx, (mayStore_congr (slotFilled_priv P i s) x).1 hstore, by simp⟩
    · exact .inr (slotFilled_mem P i s)

/-! ### The protections -/

theorem paramsOk_default : paramsOk params := defaultParametersAreLegal.1

/-- A byte of a kind that the operation cannot store to is what it was. -/
theorem memRead_exec_of_kind {i : Instr} {s t : State} (ht : transparent params s) (h : exec i s = .next t) {l : LinAddr}
    (hshared : kindAt params.regionTable l.toNat ≠ .sharedRam) (hcolour : kindAt params.regionTable l.toNat ≠ .colourRam)
    (hother : ∀ x, accessOf params i s = some x → mayStore x s →
      kindAt params.regionTable x.target.toNat ≠ kindAt params.regionTable l.toNat) :
    memRead params l t = memRead params l s := by
  obtain ⟨x, hx, hstore, hmem⟩ | hmem := execAt_mem ht ((execAt_params i s).trans h)
  · have hne := canon_ne_of_kind selfCheck_default x.target.isLt hshared hcolour (hother x hx hstore)
    rw [memRead_congr params hmem, memRead_memWrite, if_neg hne]
  · exact memRead_congr params hmem l

/-- R136: a store to shadow ROM goes through the protected handler while the protection is on, so there is none. -/
theorem mayStore_kind_ne_shadowRom {P : Params} (hP : paramsOk P) {i : Instr} {s : State} {x : Access}
    (hmap : offsetsAligned s.map) (hwp : s.romWp = true) (hx : accessOf P i s = some x) (hstore : mayStore x s) :
    kindAt P.regionTable x.target.toNat ≠ .shadowRom := by
  obtain ⟨hreaches, hrom⟩ := hstore
  obtain ⟨hkind, hzero | hhandler⟩ := kind_of_reachesStore hP hmap hx hreaches <;> rw [hkind]
  · simp [hzero, zeroPage]
  · intro hshadow
    exact hrom (by rw [hhandler, hshadow, hwp, handlerOf, if_pos rfl])

/-- Settles O50: no access may store to shadow ROM under protection, and a store elsewhere touches another byte. -/
theorem protectedRomNeverChanges : Obligations.ProtectedRomNeverChanges := by
  rintro i s t ⟨ht, -, -, hmap, -⟩ hwp h l hl
  refine memRead_exec_of_kind ht h (by simp [hl]) (by simp [hl]) fun x hx hstore => ?_
  rw [hl]
  exact mayStore_kind_ne_shadowRom paramsOk_default hmap hwp hx hstore

/-- The debug flag of an access is that of its operation (R270). -/
theorem accessOf_dbg {P : Params} {i : Instr} {s : State} {x : Access} (hx : accessOf P i s = some x) :
    x.dbg = isDebug i := by
  cases i with
  | cpuRead | cpuWrite | dbgCpuRead | dbgCpuWrite => cases hx; rfl
  | flatRead | flatWrite | dmaListRead | dmaSrcRead | dmaSrcWrite | dmaTgtRead | dmaTgtWrite | dbgLinRead | dbgLinWrite =>
    obtain ⟨-, rfl⟩ := linearAccess_some hx
    rfl
  | _ => cases hx

/-- R138: in normal mode and off the debug path the store is not reached through a privileged-only region. -/
theorem reachesStore_not_private {P : Params} (hP : paramsOk P) {i : Instr} {s : State} {x : Access}
    (hmap : offsetsAligned s.map) (hpriv : s.priv = false) (hdebug : isDebug i = false) (hx : accessOf P i s = some x)
    (hreaches : reachesStore x s) : isPrivate (kindAt P.regionTable x.target.toNat) = false := by
  have hdbg : x.dbg = false := (accessOf_dbg hx).trans hdebug
  obtain ⟨hkind, hzero | hhandler⟩ := kind_of_reachesStore hP hmap hx hreaches <;> rw [hkind]
  · rw [hzero]
    rfl
  · cases hk : x.page.kind with
    | privRam | diskBuffer => simp [reachesStore, hhandler, hk, handlerOf, hpriv, hdbg] at hreaches
    | _ => rfl

/-- Settles O51: an access that may store reaches no privileged-only region, and a store elsewhere touches another byte. -/
theorem normalModeCannotChangePrivateMemory : Obligations.NormalModeCannotChangePrivateMemory := by
  rintro i s t ⟨ht, -, -, hmap, -⟩ hpriv hdebug h l hl
  have hprivate : kindAt params.regionTable l.toNat = .privRam ∨ kindAt params.regionTable l.toNat = .diskBuffer := by
    simpa [isPrivate] using hl
  refine memRead_exec_of_kind ht h (by rintro hk; simp [hk] at hprivate) (by rintro hk; simp [hk] at hprivate)
    fun x hx hstore hsame => ?_
  have hpublic := reachesStore_not_private paramsOk_default hmap hpriv hdebug hx hstore.1
  rw [hsame, hl] at hpublic
  cases hpublic

/-! ### The block's invariant -/

/-- What is resolved in a special slot after a configuration operation was so before. -/
theorem sslotAt_configured {P : Params} {i : Instr} {s : State} (hw : pagesWf s) {k : SpecialSlot} {r : Resolved}
    (h : sslotAt k (configured P i s) = some r) : sslotAt k s = some r := by
  cases i with
  | portWrite sel v => exact sslotAt_congr (portStore_sslots P sel v s) k ▸ h
  | privSet b => exact (privInvalidate_kept b hw).2 k r h
  | romwpSet w =>
    change sslotAt k (romwpInvalidate w s) = some r at h
    by_cases hwp : w = s.romWp
    · rwa [romwpInvalidate, if_pos hwp] at h
    · exact ((romwpInvalidate_kept hwp hw).2 k r h).1
  | _ => exact h

theorem specialsAligned_slotFilled {P : Params} (i : Instr) {s : State} (h : specialsAligned s) :
    specialsAligned (slotFilled P i s) := by
  intro k r hr
  unfold slotFilled at hr
  split at hr
  · exact h k r hr
  · split at hr
    · next e _ =>
      rw [sslotAt, specialGet_put] at hr
      split at hr
      · cases hr
        exact linearPage_aligned e.1
      · exact h k r hr
    · exact h k r hr

theorem offsetsAligned_configured {P : Params} (hdecode : mapDecodeOk P.mapDecode) (i : Instr) {s : State}
    (h : offsetsAligned s.map) : offsetsAligned (configured P i s).map := by
  cases i with
  | mapApply a x y z => exact hdecode a x y z s.map h
  | portWrite sel v => exact portStore_map P sel v s ▸ h
  | privSet b => exact privInvalidate_map b s ▸ h
  | romwpSet w => exact romwpInvalidate_map w s ▸ h
  | _ => exact h

/-- Slots and map after an access are those of the state it was made on, but for the page slots of a port write. -/
theorem finish_readAccess_sslots_map (P : Params) (x : Access) (s : State) :
    (finish (readAccess P x s)).sslots = s.sslots ∧ (finish (readAccess P x s)).map = s.map := by
  obtain ⟨_, _, _, _, _, _, h⟩ := finish_execRead_frame P x.page x.offset x.dbg x.pc s
  rw [readAccess, h]
  exact ⟨rfl, rfl⟩

theorem finish_writeAccess_sslots_map (P : Params) (x : Access) (s : State) :
    (finish (writeAccess P x s)).sslots = s.sslots ∧ (finish (writeAccess P x s)).map = s.map := by
  obtain ⟨_, _, _, _, _, _, h⟩ | ⟨sel, h⟩ := finish_writeAccess_cases P x s <;> rw [h]
  · exact ⟨rfl, rfl⟩
  · exact ⟨portStore_sslots P sel x.data s, portStore_map P sel x.data s⟩

/-- The alignment of the special slots' bases and of the map's offsets (R32, R193). -/
def Aligned (s : State) : Prop := specialsAligned s ∧ offsetsAligned s.map

theorem aligned_congr {s t : State} (hslots : t.sslots = s.sslots) (hmap : t.map = s.map) (h : Aligned s) : Aligned t :=
  ⟨fun k r hr => h.1 k r (sslotAt_congr hslots k ▸ hr), hmap ▸ h.2⟩

theorem aligned_execAt {P : Params} (hdecode : mapDecodeOk P.mapDecode) {i : Instr} {s t : State} (hcache : CacheOk P s)
    (h : Aligned s) (hexec : execAt P i s = .next t) : Aligned t := by
  have hfilled : Aligned (slotFilled P i s) :=
    ⟨specialsAligned_slotFilled i h.1, (slotFilled_map P i s).symm ▸ h.2⟩
  cases effect_of_transparent hcache.2 hexec with
  | halted | impossible => exact aligned_congr rfl rfl h
  | configuration =>
    exact ⟨fun k r hr => h.1 k r (sslotAt_configured hcache.1 hr), offsetsAligned_configured hdecode i h.2⟩
  | read _ _ x u hx =>
    obtain ⟨-, rfl⟩ := hx
    obtain ⟨hslots, hmap⟩ := finish_readAccess_sslots_map P x (slotFilled P i s)
    exact aligned_congr hslots hmap hfilled
  | write _ _ x u hx =>
    obtain ⟨-, rfl⟩ := hx
    obtain ⟨hslots, hmap⟩ := finish_writeAccess_sslots_map P x (slotFilled P i s)
    exact aligned_congr hslots hmap hfilled

theorem storeWf_congr {P : Params} {s t : State} (hmem : t.mem = s.mem) (h : storeWf P s) : storeWf P t := by
  unfold storeWf
  rw [hmem]
  exact h

/-- A write to a canonical storage address keeps the store canonical (R33). -/
theorem storeWf_memWrite {P : Params} {s : State} (h : storeWf P s) {l : LinAddr} (v : Byte)
    (hl : canonicalStorage P.regionTable (canon P.regionTable l.toNat) = true) : storeWf P (memWrite P l v s) := by
  refine ⟨memory_wf_memWrite P l v h.1, fun e he => ?_⟩
  obtain rfl | hbefore := mem_assocPut he
  · exact hl
  · exact h.2 e hbefore

theorem storeWf_execAt {P : Params} (hP : paramsOk P) {i : Instr} {s t : State} (ht : transparent P s)
    (hmap : offsetsAligned s.map) (h : storeWf P s) (hexec : execAt P i s = .next t) : storeWf P t := by
  obtain ⟨x, hx, hstore, hmem⟩ | hmem := execAt_mem ht hexec
  · have hbacked := storageBacked_of_reachesStore hP hmap hx hstore.1
    exact storeWf_congr hmem (storeWf_memWrite h x.data (canonicalStorage_canon hP.1 x.target.isLt hbacked))
  · exact storeWf_congr hmem h

theorem blockInv_iff {P : Params} {s : State} : blockInv P s ↔ CacheOk P s ∧ Aligned s ∧ storeWf P s := by
  unfold blockInv CacheOk Aligned
  tauto

theorem blockInv_execAt {P : Params} (hP : paramsOk P) {i : Instr} {s t : State} (h : blockInv P s)
    (hexec : execAt P i s = .next t) : blockInv P t := by
  obtain ⟨hcache, haligned, hstore⟩ := blockInv_iff.1 h
  exact blockInv_iff.2 ⟨cacheOk_execAt hcache hexec, aligned_execAt hP.2.2 hcache haligned hexec,
    storeWf_execAt hP hcache.2 haligned.2 hstore hexec⟩

/-- The invariant holds with nothing resolved and the zero map, whatever a canonical store holds. -/
theorem blockInv_of_reset {P : Params} {s t : State} (hstore : storeWf P s) (hpages : t.pslots = [])
    (hspecials : t.sslots = SpecialSlots.unresolved) (hmap : t.map = State.reset.map) (hmem : t.mem = s.mem) :
    blockInv P t := by
  refine ⟨transparent_of_unresolved P hpages hspecials, pagesWf_of_unresolved hpages, fun k r hr => ?_, ?_,
    storeWf_congr hmem hstore⟩
  · rw [sslotAt, hspecials, specialGet_unresolved] at hr
    cases hr
  · rw [hmap]
    exact ⟨rfl, rfl⟩

/-- Settles O59: the store of the reset state is empty. -/
theorem blockInvariantHoldsAtReset : Obligations.BlockInvariantHoldsAtReset :=
  blockInv_of_reset (s := State.reset) ⟨rfl, nofun⟩ rfl rfl rfl rfl

/-- Settles O58: each part of the invariant is kept by every operation; reset establishes it and keeps the store. -/
theorem blockInvariantIsKept : Obligations.BlockInvariantIsKept := by
  intro s t h hstep
  refine stepAt_keeps (P := params) (I := blockInv params) (fun _ _ _ _ h => h) (fun s h => ?_)
    (fun _ _ _ h hexec => blockInv_execAt paramsOk_default h hexec) h ((stepAt_params s).trans hstep)
  exact blockInv_of_reset (blockInv_iff.1 h).2.2 rfl rfl rfl rfl

end Sys2Proof.StoreProofs
end

section
/-! What an operation cannot tell apart: two caches (R38, R230, R231), two contents of the privileged-only regions (R138,
R295), the debug flag outside those regions (R276). -/

namespace Sys2Proof.EquivalenceProofs

open Sys2Proof Sys2Proof.Machine Sys2Proof.AccessLaws Sys2Proof.MemoryProofs Sys2Proof.TransparencyProofs
  Sys2Proof.StoreProofs Sys2Proof.StepProofs

/-! ### Other slots, another store -/

/-- The state with other slots and another store: all that an access looks at besides are the registers and the boundary. -/
def withData (p : List (Nat × Resolved)) (k : SpecialSlots) (m : List Host.Cell) (s : State) : State :=
  { s with pslots := p, sslots := k, mem := m }

section
variable (p : List (Nat × Resolved)) (k : SpecialSlots) (m : List Host.Cell) {P : Params} {x : Access} {s : State}

/-- The UnmappedAccess procedure looks at no slot and at no byte of the store (R284). -/
theorem finish_unmappedAccess_data (l : LinAddr) (pc : CpuPc) (w : Bool) (v : Byte) (s : State) :
    finish (unmappedAccess l pc w v (withData p k m s)) = withData p k m (finish (unmappedAccess l pc w v s)) := by
  have hmode : (withData p k m s).unmappedMode = s.unmappedMode := rfl
  have hprompt : promptAnswer l pc w (withData p k m s) = promptAnswer l pc w s := rfl
  unfold unmappedAccess
  rw [hmode, hprompt]
  cases s.unmappedMode with
  | silent => rfl
  | ask =>
    simp only []
    split
    · rfl
    · split <;> rfl

/-- A read looks at no slot, and at no byte of the store but the one it reaches. -/
theorem finish_readAccess_data (hzero : ZeroPageAtZero x)
    (hbyte : reachesStore x s → storedByte m (canon P.regionTable x.target.toNat) = memRead P x.target s) :
    finish (readAccess P x (withData p k m s)) = withData p k m (finish (readAccess P x s)) := by
  obtain hreaches | hdummy | ⟨hzp, sel, ho⟩ | ⟨layout, a, hdevice⟩ | hunmapped := access_classes P x s
  · have hsame : memRead P x.target (withData p k m s) = memRead P x.target s := hbyte hreaches
    rw [readAccess_of_reachesStore hzero hreaches,
      readAccess_of_reachesStore (s := withData p k m s) hzero hreaches, hsame]
    rfl
  · rw [readAccess_of_seesDummy hdummy, readAccess_of_seesDummy (s := withData p k m s) hdummy]
    rfl
  · rw [readAccess_of_port hzp ho, readAccess_of_port hzp ho]
    cases sel <;> rfl
  · rw [readAccess_of_device hdevice, readAccess_of_device (s := withData p k m s) hdevice]
    rfl
  · rw [readAccess_of_unmapped hunmapped, readAccess_of_unmapped hunmapped, finish_unmappedAccess_data]

end

/-! ### Other slots (R38, R230) -/

/-- Two states with the same view but for the cache are one state with two caches. -/
theorem dropCache_eq_iff {s u : State} : dropCache s = dropCache u ↔ s = withData s.pslots s.sslots u.mem u := by
  constructor
  · intro h
    cases s
    cases u
    simp only [dropCache, State.mk.injEq] at h
    simp [withData, h]
  · intro h
    rw [h]
    rfl

theorem dropCache_slotFilled (P : Params) (i : Instr) (s : State) : dropCache (slotFilled P i s) = dropCache s := by
  unfold slotFilled
  split
  · rfl
  · split <;> rfl

theorem dropCache_privInvalidate (b : Bool) (s : State) : dropCache (privInvalidate b s) = dropCache s := by
  unfold privInvalidate
  split <;> rfl

theorem dropCache_romwpInvalidate (w : Bool) (s : State) : dropCache (romwpInvalidate w s) = dropCache s := by
  unfold romwpInvalidate
  split <;> rfl

theorem dropCache_portStore (P : Params) (sel : PortReg) (v : Byte) (s : State) :
    dropCache (portStore P sel v s) = putPort sel v (dropCache s) := by
  cases sel <;> rfl

section
variable {P : Params} {s u : State} (h : dropCache s = dropCache u)
include h

theorem dropCache_respond (st : Status) (v : Byte) : dropCache (respond st v s) = dropCache (respond st v u) :=
  congrArg (respond st v) h

theorem accessOf_dropCache (i : Instr) : accessOf P i s = accessOf P i u := by
  rw [dropCache_eq_iff.1 h]
  cases i <;> rfl

theorem dropCache_configured (i : Instr) : dropCache (configured P i s) = dropCache (configured P i u) := by
  cases i with
  | portWrite sel v =>
    have key := fun s => dropCache_portStore P sel v s
    exact (key s).trans ((congrArg (putPort sel v) h).trans (key u).symm)
  | privSet b =>
    have key : dropCache (privInvalidate b s) = dropCache (privInvalidate b u) := by
      rw [dropCache_privInvalidate, dropCache_privInvalidate, h]
    exact congrArg (fun s : State => { s with priv := b }) key
  | romwpSet w =>
    have key : dropCache (romwpInvalidate w s) = dropCache (romwpInvalidate w u) := by
      rw [dropCache_romwpInvalidate, dropCache_romwpInvalidate, h]
    exact congrArg (fun s : State => { s with romWp := w }) key
  | romselWrite rv => exact congrArg (fun s : State => { s with romvis := rv }) h
  | mapApply a x y z =>
    exact congrArg (fun s : State => { s with map := P.mapDecode a x y z s.map, irqInhibit := true }) h
  | mapCommit => exact congrArg (fun s : State => { s with irqInhibit := false }) h
  | layoutSet l => exact congrArg (fun s : State => { s with ioLayout := l }) h
  | _ => exact h

theorem dropCache_finish_readAccess {x : Access} (hzero : ZeroPageAtZero x) :
    dropCache (finish (readAccess P x s)) = dropCache (finish (readAccess P x u)) := by
  rw [dropCache_eq_iff.1 h, finish_readAccess_data _ _ _ hzero fun _ => rfl]
  obtain ⟨_, _, _, _, _, _, hframe⟩ := finish_execRead_frame P x.page x.offset x.dbg x.pc u
  rw [readAccess, hframe]
  rfl

/-- A write does the same to two blocks that differ in their slots. -/
theorem dropCache_finish_writeAccess {x : Access} (hzero : ZeroPageAtZero x) :
    dropCache (finish (writeAccess P x s)) = dropCache (finish (writeAccess P x u)) := by
  have hpriv : u.priv = s.priv := (congrArg State.priv h).symm
  have hlayout : u.ioLayout = s.ioLayout := (congrArg State.ioLayout h).symm
  obtain hreaches | hdummy | ⟨hzp, sel, ho⟩ | ⟨layout, a, hdevice⟩ | hunmapped := access_classes P x s
  · by_cases hrom : x.page.handler = .romRo
    · rw [writeAccess_of_romRo hrom, writeAccess_of_romRo hrom]
      exact dropCache_respond h _ _
    · have hstore : mayStore x s := ⟨hreaches, hrom⟩
      rw [writeAccess_of_mayStore hzero hstore, writeAccess_of_mayStore hzero ((mayStore_congr hpriv x).2 hstore)]
      have hwritten : dropCache (memWrite P x.target x.data s) = dropCache (memWrite P x.target x.data u) := by
        exact congrArg (fun s => memWrite P x.target x.data s) h
      exact dropCache_respond hwritten _ _
  · rw [writeAccess_of_seesDummy hdummy, writeAccess_of_seesDummy ((seesDummy_congr hpriv x).2 hdummy)]
    exact dropCache_respond h _ _
  · rw [writeAccess_of_port hzp ho, writeAccess_of_port hzp ho]
    exact dropCache_respond (dropCache_configured h (.portWrite sel x.data)) _ _
  · rw [writeAccess_of_device hdevice, writeAccess_of_device ((deviceOf_congr P hlayout x).trans hdevice)]
    have hcalled : dropCache (ioWrite layout a x.data s) = dropCache (ioWrite layout a x.data u) := by
      exact congrArg (fun s => ioWrite layout a x.data s) h
    exact dropCache_respond hcalled _ _
  · rw [writeAccess_of_unmapped hunmapped, writeAccess_of_unmapped hunmapped, dropCache_eq_iff.1 h,
      finish_unmappedAccess_data]
    obtain ⟨_, _, _, _, _, hframe⟩ := finish_unmapped_frame x.target x.pc true 0x00#8 u
    rw [hframe]
    rfl

end

theorem exists_dropCache_execAt {P : Params} {s u : State} (hs : transparent P s) (hu : transparent P u)
    (h : dropCache s = dropCache u) (i : Instr) :
    ∃ t v, execAt P i s = .next t ∧ execAt P i u = .next v ∧ dropCache t = dropCache v := by
  have hrunSame : s.run = u.run := by simpa using congrArg State.run h
  have hfilled : dropCache (slotFilled P i s) = dropCache (slotFilled P i u) := by
    rw [dropCache_slotFilled, dropCache_slotFilled, h]
  obtain ⟨t, ht, heffect⟩ := exists_effect_of_transparent hs i
  refine ⟨t, ?_⟩
  cases heffect with
  | halted hrun =>
    exact ⟨_, ht, execAt_halted i (hrunSame ▸ hrun), congrArg (fun s : State => { s with rsp := none }) h⟩
  | configuration hrun hi =>
    exact ⟨_, ht, (execAt_configuration P hi u).trans (operate_running (hrunSame ▸ hrun)),
      dropCache_respond (dropCache_configured h i) _ _⟩
  | impossible hrun a k pc hlinear ha =>
    exact ⟨_, ht, execAt_impossible hlinear (hrunSame ▸ hrun) ha, congrArg (halt .impossible a pc) h⟩
  | read hrun hi x _ hx =>
    obtain ⟨hx, rfl⟩ := hx
    exact ⟨_, ht, execAt_read hi (hrunSame ▸ hrun) hu ((accessOf_dropCache h i).symm.trans hx),
      dropCache_finish_readAccess hfilled (zeroPageAtZero_of_accessOf hx)⟩
  | write hrun hi x _ hx =>
    obtain ⟨hx, rfl⟩ := hx
    exact ⟨_, ht, execAt_write hi (hrunSame ▸ hrun) hu ((accessOf_dropCache h i).symm.trans hx),
      dropCache_finish_writeAccess hfilled (zeroPageAtZero_of_accessOf hx)⟩

/-- What crosses the boundary is no part of transparency. -/
theorem transparent_takeRequest {P : Params} {s : State} (w : Request) (rest : List Input) (h : transparent P s) :
    transparent P (takeRequest w rest s) := h

theorem dropCache_illegalOperation {s u : State} (h : dropCache s = dropCache u) :
    ∃ t v, illegalOperation s = .next t ∧ illegalOperation u = .next v ∧ dropCache t = dropCache v := by
  have hrunSame : s.run = u.run := by simpa using congrArg State.run h
  obtain ⟨hrun, hs⟩ | ⟨hrun, hs⟩ := operate_cases (fun s => respond .illegalOp 0x00#8 s) s
  · exact ⟨_, _, hs, operate_running (hrunSame ▸ hrun), dropCache_respond h _ _⟩
  · obtain ⟨hrunning, -⟩ | ⟨-, hu⟩ := operate_cases (fun s => respond .illegalOp 0x00#8 s) u
    · exact absurd (hrunSame.trans hrunning) hrun
    · exact ⟨_, _, hs, hu, congrArg (fun s : State => { s with rsp := none }) h⟩

/-- Settles O57: both blocks take the same input, and each thing a step can take keeps them equal up to their caches. -/
theorem cachesAreInvisible : Obligations.CachesAreInvisible := by
  intro P s u hs hu h
  have hinbox : s.inbox = u.inbox := by simpa using congrArg State.inbox h
  cases hnext : u.inbox with
  | nil => exact ⟨s, u, nextInput_idle (hinbox.trans hnext), nextInput_idle hnext, h⟩
  | cons input rest =>
    have hnextS := hinbox.trans hnext
    cases input with
    | reset =>
      have hreset := congrArg (fun s : State => applyReset P { s with inbox := rest }) h
      exact ⟨_, _, nextInput_reset hnextS, nextInput_reset hnext, hreset⟩
    | request w =>
      have htaken : dropCache (takeRequest w rest s) = dropCache (takeRequest w rest u) :=
        congrArg (takeRequest w rest) h
      rw [stepAt, stepAt, nextInput_request hnextS, nextInput_request hnext]
      unfold runRequest
      split
      · exact exists_dropCache_execAt (transparent_takeRequest w rest hs) (transparent_takeRequest w rest hu) htaken _
      · exact dropCache_illegalOperation htaken

end Sys2Proof.EquivalenceProofs
end

section
/-! The debug path against its counterparts (R270, R276), and what normal mode can tell of the privileged-only regions (R138,
R295). -/

namespace Sys2Proof.EquivalenceProofs

open Sys2Proof Sys2Proof.Machine Sys2Proof.AccessLaws Sys2Proof.MemoryProofs Sys2Proof.TransparencyProofs
  Sys2Proof.StoreProofs

/-! ### The debug flag (R270, R276) -/

section
variable {P : Params} {x : Access} {s : State} (h : s.priv = true ∨ x.page.handler ≠ .priv) (d : Bool)
include h

/-- Only the privileged-only handler reads the flag, and in privileged mode it answers alike. -/
theorem readAccess_dbg : readAccess P { x with dbg := d } s = readAccess P x s := by
  cases hh : x.page.handler with
  | priv =>
    have hpriv : s.priv = true := h.resolve_right (not_not.2 hh)
    simp only [readAccess, execRead, hh, hpriv, Bool.true_or, if_true]
  | _ => simp only [readAccess, execRead, hh]

theorem writeAccess_dbg : writeAccess P { x with dbg := d } s = writeAccess P x s := by
  cases hh : x.page.handler with
  | priv =>
    have hpriv : s.priv = true := h.resolve_right (not_not.2 hh)
    simp only [writeAccess, execWrite, hh, hpriv, Bool.true_or, if_true]
  | _ => simp only [writeAccess, execWrite, hh]

end

section
variable {i j : Instr} (h : debugCounterpart i = some j)
include h

theorem debugCounterpart_kind :
    isAccessRead j = isAccessRead i ∧ isAccessWrite j = isAccessWrite i ∧ isConfiguration i = false := by
  cases i with
  | dbgLinRead | dbgLinWrite | dbgCpuRead | dbgCpuWrite => cases h; exact ⟨rfl, rfl, rfl⟩
  | _ => cases h

/-- The counterpart of a linear operation has the same operand and goes through the flat slot (R271, R272). -/
theorem debugCounterpart_linearOperand {a : WideAddr} {k : SpecialSlot} {pc : CpuPc}
    (hi : linearOperand i = some (a, k, pc)) : linearOperand j = some (a, .flat, pc) := by
  cases i with
  | dbgLinRead | dbgLinWrite => cases h; cases hi; rfl
  | dbgCpuRead | dbgCpuWrite => cases hi
  | _ => cases h

/-- The counterpart makes the same access without the flag. -/
theorem debugCounterpart_accessOf {P : Params} {s : State} {x : Access} (hx : accessOf P i s = some x) :
    accessOf P j s = some { x with dbg := false } := by
  cases i with
  | dbgCpuRead | dbgCpuWrite => cases h; cases hx; rfl
  | dbgLinRead | dbgLinWrite =>
    cases h
    obtain ⟨hinside, rfl⟩ := linearAccess_some hx
    exact if_pos (of_decide_eq_true hinside)
  | _ => cases h

end

/-- Settles O48: the two operations make one access up to the flag, which the premise makes irrelevant, and fill different
slots, which `dropCache` forgets. -/
theorem debugOperationMatchesCounterpart : Obligations.DebugOperationMatchesCounterpart := by
  intro i j s hij ht hflag
  obtain ⟨hread, hwrite, hconf⟩ := debugCounterpart_kind hij
  have hfilled : dropCache (slotFilled params i s) = dropCache (slotFilled params j s) := by
    rw [dropCache_slotFilled, dropCache_slotFilled]
  have hsame : ∀ x, accessOf params i s = some x → (slotFilled params j s).priv = true ∨ x.page.handler ≠ .priv :=
    fun x hx => by simpa using hflag.imp_right fun hpage => hpage x hx
  obtain ⟨t, hexec, heffect⟩ := exists_effect_of_transparent ht i
  rw [execAt_params] at hexec
  simp only [← execAt_params j]
  refine ⟨t, ?_⟩
  cases heffect with
  | halted hrun => exact ⟨_, hexec, execAt_halted j hrun, rfl⟩
  | configuration _ hi => simp [hconf] at hi
  | impossible hrun a k pc hlinear ha =>
    exact ⟨_, hexec, execAt_impossible (debugCounterpart_linearOperand hij hlinear) hrun ha, rfl⟩
  | read hrun hi x _ hx =>
    obtain ⟨hx, rfl⟩ := hx
    refine ⟨_, hexec, execAt_read (hread.trans hi) hrun ht (debugCounterpart_accessOf hij hx), ?_⟩
    exact (dropCache_finish_readAccess hfilled (zeroPageAtZero_of_accessOf hx)).trans
      (congrArg (fun r => dropCache (finish r)) (readAccess_dbg (hsame x hx) false).symm)
  | write hrun hi x _ hx =>
    obtain ⟨hx, rfl⟩ := hx
    refine ⟨_, hexec, execAt_write (hwrite.trans hi) hrun ht (debugCounterpart_accessOf hij hx), ?_⟩
    exact (dropCache_finish_writeAccess hfilled (zeroPageAtZero_of_accessOf hx)).trans
      (congrArg (fun r => dropCache (finish r)) (writeAccess_dbg (hsame x hx) false).symm)

/-! ### Other contents of the privileged-only regions (R138, R295) -/

/-- The state with another store. -/
def withMem (m : List Host.Cell) (s : State) : State := { s with mem := m }

/-- The second state is the first with a store that differs from its own in privileged-only regions at most. -/
def PublicTwins (P : Params) (s u : State) : Prop :=
  ∃ m, u = withMem m s ∧ ∀ l : LinAddr, isPrivate (kindAt P.regionTable l.toNat) = false →
    storedByte m (canon P.regionTable l.toNat) = memRead P l s

/-- An update that takes no account of the store keeps twins twins. -/
theorem PublicTwins.map {P : Params} {s u : State} (h : PublicTwins P s u) {f : State → State}
    (hf : ∀ m, f (withMem m s) = withMem m (f s)) (hmem : (f s).mem = s.mem) : PublicTwins P (f s) (f u) := by
  obtain ⟨m, rfl, hagree⟩ := h
  exact ⟨m, hf m, fun l hl => (hagree l hl).trans (memRead_congr P hmem l).symm⟩

section
variable {P : Params} {s u : State} (h : PublicTwins P s u)
include h

theorem PublicTwins.respond (st : Status) (v : Byte) :
    PublicTwins P (Machine.respond st v s) (Machine.respond st v u) :=
  h.map (f := Machine.respond st v) (fun _ => rfl) rfl

theorem PublicTwins.slotFilled (i : Instr) : PublicTwins P (Machine.slotFilled P i s) (Machine.slotFilled P i u) := by
  refine h.map (f := Machine.slotFilled P i) (fun m => ?_) (slotFilled_mem P i s)
  have hfill : ∀ p, (fillPageSlot P p (withMem m s)).pslots = (fillPageSlot P p s).pslots := fun p => by
    have hslot : pslotAt p (withMem m s) = pslotAt p s := rfl
    unfold fillPageSlot
    rw [hslot]
    split <;> rfl
  unfold Machine.slotFilled
  split
  · next p _ => exact congrArg (fun q => { withMem m s with pslots := q }) (hfill p)
  · split <;> rfl

theorem PublicTwins.portStore (sel : PortReg) (v : Byte) :
    PublicTwins P (Machine.portStore P sel v s) (Machine.portStore P sel v u) :=
  h.map (f := Machine.portStore P sel v) (fun _ => by cases sel <;> rfl) (portStore_mem P sel v s)

/-- The same byte at the same address on both sides (R72). -/
theorem PublicTwins.memWrite (l : LinAddr) (v : Byte) :
    PublicTwins P (Machine.memWrite P l v s) (Machine.memWrite P l v u) := by
  obtain ⟨m, rfl, hagree⟩ := h
  refine ⟨assocPut (canon P.regionTable l.toNat) v m, rfl, fun j hj => ?_⟩
  rw [storedByte_put, memRead_memWrite, hagree j hj]

theorem PublicTwins.configured (i : Instr) :
    PublicTwins P (AccessLaws.configured P i s) (AccessLaws.configured P i u) := by
  refine h.map (f := AccessLaws.configured P i) (fun m => ?_) (configured_mem P i s)
  cases i with
  | portWrite sel v => cases sel <;> rfl
  | privSet b =>
    have key : privInvalidate b (withMem m s) = withMem m (privInvalidate b s) := by
      have hpriv : (withMem m s).priv = s.priv := rfl
      rw [privInvalidate, privInvalidate, hpriv]
      split <;> rfl
    calc AccessLaws.configured P (.privSet b) (withMem m s)
      _ = bankUpdate P (currentBank P s) { privInvalidate b (withMem m s) with priv := b } := rfl
      _ = bankUpdate P (currentBank P s) { withMem m (privInvalidate b s) with priv := b } := by rw [key]
      _ = withMem m (AccessLaws.configured P (.privSet b) s) := rfl
  | romwpSet w =>
    have key : romwpInvalidate w (withMem m s) = withMem m (romwpInvalidate w s) := by
      have hwp : (withMem m s).romWp = s.romWp := rfl
      rw [romwpInvalidate, romwpInvalidate, hwp]
      split <;> rfl
    calc AccessLaws.configured P (.romwpSet w) (withMem m s)
      _ = { romwpInvalidate w (withMem m s) with romWp := w } := rfl
      _ = { withMem m (romwpInvalidate w s) with romWp := w } := by rw [key]
      _ = withMem m (AccessLaws.configured P (.romwpSet w) s) := rfl
  | _ => rfl

theorem PublicTwins.accessOf (i : Instr) : Machine.accessOf P i u = Machine.accessOf P i s := by
  obtain ⟨m, rfl, -⟩ := h
  cases i <;> rfl

theorem PublicTwins.finish_unmappedAccess (l : LinAddr) (pc : CpuPc) (w : Bool) (v : Byte) :
    PublicTwins P (finish (unmappedAccess l pc w v s)) (finish (unmappedAccess l pc w v u)) := by
  obtain ⟨_, _, _, _, _, hframe⟩ := finish_unmapped_frame l pc w v s
  refine h.map (f := fun t => finish (unmappedAccess l pc w v t)) (fun m => ?_) (by rw [hframe])
  have hdata := finish_unmappedAccess_data s.pslots s.sslots m l pc w v s
  rw [hframe] at hdata ⊢
  exact hdata

/-- A read of a public byte, or of none, answers alike on both sides. -/
theorem PublicTwins.finish_readAccess {x : Access} (hzero : ZeroPageAtZero x)
    (hpublic : reachesStore x s → isPrivate (kindAt P.regionTable x.target.toNat) = false) :
    PublicTwins P (finish (readAccess P x s)) (finish (readAccess P x u)) := by
  obtain ⟨m, rfl, hagree⟩ := h
  have hdata := finish_readAccess_data s.pslots s.sslots m hzero fun hreaches => hagree x.target (hpublic hreaches)
  have hmem := finish_readAccess_mem P x s
  obtain ⟨_, _, _, _, _, _, hframe⟩ := finish_execRead_frame P x.page x.offset x.dbg x.pc s
  refine ⟨m, hdata.trans ?_, fun l hl => (hagree l hl).trans (memRead_congr P hmem l).symm⟩
  rw [readAccess, hframe]
  rfl

theorem PublicTwins.finish_writeAccess {x : Access} (hzero : ZeroPageAtZero x) :
    PublicTwins P (finish (writeAccess P x s)) (finish (writeAccess P x u)) := by
  have hu := h
  obtain ⟨m, rfl, -⟩ := hu
  obtain hreaches | hdummy | ⟨hzp, sel, ho⟩ | ⟨layout, a, hdevice⟩ | hunmapped := access_classes P x s
  · by_cases hrom : x.page.handler = .romRo
    · rw [writeAccess_of_romRo hrom, writeAccess_of_romRo hrom]
      exact h.respond _ _
    · have hstore : mayStore x s := ⟨hreaches, hrom⟩
      rw [writeAccess_of_mayStore hzero hstore, writeAccess_of_mayStore (s := withMem m s) hzero hstore]
      exact (h.memWrite x.target x.data).respond _ _
  · rw [writeAccess_of_seesDummy hdummy, writeAccess_of_seesDummy (s := withMem m s) hdummy]
    exact h.respond _ _
  · rw [writeAccess_of_port hzp ho, writeAccess_of_port hzp ho]
    exact (h.portStore sel x.data).respond _ _
  · rw [writeAccess_of_device hdevice, writeAccess_of_device (s := withMem m s) hdevice]
    exact (h.map (f := ioWrite layout a x.data) (fun _ => rfl) rfl).respond _ _
  · rw [writeAccess_of_unmapped hunmapped, writeAccess_of_unmapped hunmapped]
    exact h.finish_unmappedAccess _ _ _ _

end

theorem publicTwins_iff {P : Params} {s u : State} :
    PublicTwins P s u ↔ u = { s with mem := u.mem } ∧
      ∀ l : LinAddr, isPrivate (kindAt P.regionTable l.toNat) = false → memRead P l u = memRead P l s := by
  constructor
  · rintro ⟨m, rfl, hagree⟩
    exact ⟨rfl, hagree⟩
  · rintro ⟨hu, hagree⟩
    exact ⟨u.mem, hu, hagree⟩

/-- Settles O52: in normal mode an access off the debug path that ends in the store reaches a public byte, so twins stay
twins through whatever the operation does. -/
theorem normalModeCannotSeePrivateMemory : Obligations.NormalModeCannotSeePrivateMemory := by
  rintro i s u t v ⟨ht, -, -, hmap, -⟩ hpriv hdebug hu hagree hs hv
  have h : PublicTwins params s u := publicTwins_iff.2 ⟨hu, hagree⟩
  have hrunSame : u.run = s.run := by rw [hu]
  have htu : transparent params u := by rw [hu]; exact ht
  suffices PublicTwins params t v from publicTwins_iff.1 this
  rw [← execAt_params] at hs hv
  have answer : ∀ {w}, execAt params i u = .next w → PublicTwins params t w → PublicTwins params t v := by
    intro w hw
    rw [hw] at hv
    cases hv
    exact id
  cases effect_of_transparent ht hs with
  | halted hrun =>
    exact answer (execAt_halted i (hrunSame ▸ hrun)) (h.map (f := fun s => { s with rsp := none }) (fun _ => rfl) rfl)
  | configuration hrun hi =>
    exact answer ((execAt_configuration params hi u).trans (operate_running (hrunSame.trans hrun)))
      ((h.configured i).respond _ _)
  | impossible hrun a k pc hlinear ha =>
    exact answer (execAt_impossible hlinear (hrunSame.trans hrun) ha)
      (h.map (f := halt .impossible a pc) (fun _ => rfl) rfl)
  | read hrun hi x _ hx =>
    obtain ⟨hx, rfl⟩ := hx
    refine answer (execAt_read hi (hrunSame.trans hrun) htu ((h.accessOf i).trans hx))
      ((h.slotFilled i).finish_readAccess (zeroPageAtZero_of_accessOf hx) fun hreaches => ?_)
    have hreaches : reachesStore x s := (reachesStore_congr (slotFilled_priv params i s) x).1 hreaches
    exact reachesStore_not_private paramsOk_default hmap hpriv hdebug hx hreaches
  | write hrun hi x _ hx =>
    obtain ⟨hx, rfl⟩ := hx
    exact answer (execAt_write hi (hrunSame.trans hrun) htu ((h.accessOf i).trans hx))
      ((h.slotFilled i).finish_writeAccess (zeroPageAtZero_of_accessOf hx))

end Sys2Proof.EquivalenceProofs
end

section
/-! The remaining access operations: the unmapped access (R142, R284), the port through the zero page (R245, R246), and the
laws of the paths (R84, R119, R226, R252, R266). -/

namespace Sys2Proof.AccessProofs

open Sys2Proof Sys2Proof.Machine Sys2Proof.AccessLaws Sys2Proof.MemoryProofs Sys2Proof.BankPolicyProofs
  Sys2Proof.TransparencyProofs Sys2Proof.StoreProofs

/-! ### The unmapped access -/

/-- The prompt's next choice is the scripted one, or the free value (log entry 4). -/
theorem promptAnswer_eq {l : LinAddr} {pc : CpuPc} {w : Bool} {c : Choice} {s : State}
    (h : (∃ rest, s.choices = c :: rest) ∨ s.choices = [] ∧ c = Config.promptChoice s.events l pc w) :
    promptAnswer l pc w s = c := by
  obtain ⟨rest, h⟩ | ⟨h, rfl⟩ := h <;> simp [promptAnswer, h]

/-- An access to an unmapped address, read or write, is the UnmappedAccess procedure on the state with the slot filled. -/
theorem exec_unmapped {i : Instr} {s : State} {x : Access} {w : Bool} {r : Response}
    (hkind : isAccessRead i = true ∧ w = false ∧ r = 0x01FF#16 ∨ isAccessWrite i = true ∧ w = true ∧ r = 0x0100#16)
    (hrun : s.run = .running) (ht : transparent params s) (hx : accessOf params i s = some x)
    (hunmapped : x.page.handler = .unmapped) :
    ∃ v, responseWord .okDummy v = r ∧
      exec i s = .next (finish (unmappedAccess x.target x.pc w v (slotFilled params i s))) := by
  obtain ⟨hi, rfl, rfl⟩ | ⟨hi, rfl, rfl⟩ := hkind
  · exact ⟨dummyByte, rfl, by rw [exec_read hi hrun ht hx, readAccess_of_unmapped hunmapped]⟩
  · exact ⟨0x00#8, rfl, by rw [exec_write hi hrun ht hx, writeAccess_of_unmapped hunmapped]⟩

/-- The four ends of the procedure, by mode and choice (R284). -/
theorem finish_unmappedAccess_eq (l : LinAddr) (pc : CpuPc) (w : Bool) (v : Byte) (s : State) :
    (s.unmappedMode = .silent → finish (unmappedAccess l pc w v s) = respond .okDummy v s) ∧
    (s.unmappedMode = .ask → (promptAnswer l pc w s = 0#2 ∨ promptAnswer l pc w s = 3#2) →
      finish (unmappedAccess l pc w v s) = halt .abort (l.setWidth 32) pc (afterReport l pc w s)) ∧
    (s.unmappedMode = .ask → (promptAnswer l pc w s = 1#2 ∨ promptAnswer l pc w s = 2#2) →
      finish (unmappedAccess l pc w v s) = respond .okDummy v
        { afterReport l pc w s with unmappedMode := if promptAnswer l pc w s = 2#2 then .silent else .ask }) := by
  obtain ⟨hm, h⟩ | ⟨hm, hc, h⟩ | ⟨hm, hc, h⟩ | ⟨hm, hc, h⟩ := unmappedAccess_cases l pc w v s <;> rw [h, hm]
  · exact ⟨fun _ => rfl, nofun, nofun⟩
  · refine ⟨nofun, fun _ _ => rfl, fun _ hc' => ?_⟩
    obtain h0 | h3 := hc
    · simp [h0] at hc'
    · simp [h3] at hc'
  · refine ⟨nofun, fun _ hc' => by simp [hc] at hc', fun _ _ => ?_⟩
    rw [if_pos hc]
    rfl
  · refine ⟨nofun, fun _ hc' => by simp [hc] at hc', fun _ _ => ?_⟩
    rw [hc, if_neg (by decide), ← hm]
    rfl

/-- Settles O42: both directions are the one procedure, and its four ends are those of `finish_unmappedAccess_eq`. -/
theorem unmappedAccessFollowsChoice : Obligations.UnmappedAccessFollowsChoice := by
  intro i s x w r c hkind hrun ht hx hunmapped hchoice
  obtain ⟨v, rfl, hexec⟩ := exec_unmapped hkind hrun ht hx hunmapped
  have hc : promptAnswer x.target x.pc w (slotFilled params i s) = c := promptAnswer_eq (by simpa using hchoice)
  obtain ⟨hsilent, habort, hgo⟩ := finish_unmappedAccess_eq x.target x.pc w v (slotFilled params i s)
  rw [slotFilled_unmappedMode] at hsilent habort hgo
  rw [hc] at habort hgo
  rw [hexec]
  refine ⟨fun hm => ?_, fun hm hc' => ?_, fun hm hc' => ?_⟩
  · rw [hsilent hm]
    simp [respond, emit]
  · rw [habort hm hc']
    simp [halt, afterReport, emit, hc]
  · rw [hgo hm hc']
    simp [respond, afterReport, emit, hc]

/-! ### The port through the zero page (R245, R246) -/

theorem exec_write_of_port {i : Instr} {s : State} {x : Access} (hi : isAccessWrite i = true) (hrun : s.run = .running)
    (ht : transparent params s) (hx : accessOf params i s = some x) (hzp : x.page.handler = .zp) {sel : PortReg}
    (ho : x.offset = portOffset sel) :
    exec i s = .next (respond .ok 0x00#8 (portStore params sel x.data (slotFilled params i s))) := by
  rw [exec_write hi hrun ht hx, writeAccess_of_port hzp ho, finish]

/-- An operation without a linear operand fills no special slot (R31). -/
theorem slotFilled_sslots {P : Params} {i : Instr} (h : linearOperand i = none) (s : State) :
    (slotFilled P i s).sslots = s.sslots := by
  unfold slotFilled
  rw [h]
  split <;> rfl

/-- The page slots after the write of a port register (R168, R170). -/
theorem clearedIff_portStore (P : Params) (sel : PortReg) (v : Byte) {s : State} (hw : pagesWf s) (p : PageNo) :
    ClearedIff (zoneChanged P s (portStore P sel v s) p) (pslotAt p s) (pslotAt p (portStore P sel v s)) := by
  have hpages : (putPort sel v s).pslots = s.pslots := putPort_pslots sel v s
  have hcleared := clearedIff_bankUpdate_page P s (pagesWf_congr hpages hw) p
  rw [pslotAt_congr hpages] at hcleared
  exact hcleared

/-- Settles O39: what O24 says of `PORT_WRITE`, on the state with the slot filled, whose bank view is that of `s`. -/
theorem writeOfPortSetsRegister : Obligations.WriteOfPortSetsRegister := by
  intro i s x hi hrun ht hw hx hzp hoffset
  have hslots : (slotFilled params i s).sslots = s.sslots := slotFilled_sslots (linearOperand_of_zp hx hzp) s
  have hbank : currentBank params (slotFilled params i s) = currentBank params s :=
    currentBank_congr params (by simp) (by simp) (by simp) (by simp)
  obtain ⟨sel, ho⟩ : ∃ sel, x.offset = portOffset sel := hoffset.elim (fun h => ⟨.ddr, h⟩) fun h => ⟨.data, h⟩
  refine ⟨_, exec_write_of_port hi hrun ht hx hzp ho, ?_, fun p => ?_⟩
  · rw [respond_ok]
    cases sel <;> simp [ho, portOffset, hslots]
  · have hcleared := clearedIff_portStore params sel x.data (pagesWf_slotFilled params i hw) p
    rw [zoneChanged, hbank] at hcleared
    exact hcleared

/-- R217: page 0 of a block that is not map-active is the zero page. -/
theorem resolveCpuPage_zero (P : Params) {s : State} (h : mapEntry s.map 0#3 = none) :
    resolveCpuPage P s 0#8 = zeroPage := by
  have hblock : pageBlock 0#8 = 0#3 := rfl
  rw [resolveCpuPage, hblock, h]
  exact if_pos rfl

/-- Settles O40: both are the write of the port register, on the state with the slot of page 0 filled. -/
theorem zeroPageWriteIsPortWrite : Obligations.ZeroPageWriteIsPortWrite := by
  intro s v pc hrun ht hmap
  have key : ∀ (a : CpuAddr) (sel : PortReg), cpuPage a = 0#8 → cpuOffset a = portOffset sel →
      exec (.cpuWrite a v pc) s = exec (.portWrite sel v) (slotFilled params (.cpuWrite a v pc) s) := by
    intro a sel hpage ho
    have hzp : (cpuAccess params a v false pc s).page.handler = .zp := by
      rw [cpuAccess, hpage, resolveCpuPage_zero params hmap]
      rfl
    rw [exec_write_of_port rfl hrun ht rfl hzp ho, exec_portWrite ((slotFilled_run params _ s).trans hrun)]
    rfl
  exact ⟨key 0x0000#16 .ddr rfl rfl, key 0x0001#16 .data rfl rfl⟩

/-! ### Slots other than the operation's own -/

/-- A linear operation fills its own special slot, and no other (R226). -/
theorem slotFilled_of_linearOperand {P : Params} {i : Instr} {a : WideAddr} {k : SpecialSlot} {pc : CpuPc}
    (h : linearOperand i = some (a, k, pc)) (s : State) :
    slotFilled P i s =
      { s with sslots := specialPut k (some (resolveLinearPage P s.romWp (linearPage a))) s.sslots } := by
  cases i with
  | flatRead | flatWrite | dmaListRead | dmaSrcRead | dmaSrcWrite | dmaTgtRead | dmaTgtWrite | dbgLinRead | dbgLinWrite =>
    cases h
    rfl
  | _ => cases h

/-- Settles O44: no access of a linear operation reaches the zero page, so none writes the port, and the handlers touch no
slot. -/
theorem linearAccessKeepsOtherSlots : Obligations.LinearAccessKeepsOtherSlots := by
  intro i s t a k pc ht hlinear h
  have hfilled : (slotFilled params i s).pslots = s.pslots ∧
      ∀ j, j ≠ k → sslotAt j (slotFilled params i s) = sslotAt j s := by
    rw [slotFilled_of_linearOperand hlinear]
    exact ⟨rfl, fun j hj => specialGet_put_ne hj _ _⟩
  have hpage : ∀ x, accessOf params i s = some x → x.page.handler ≠ .zp := fun x hx hzp => by
    simp [linearOperand_of_zp hx hzp] at hlinear
  cases effect_of_exec_transparent ht h with
  | halted | impossible => exact ⟨rfl, fun _ _ => rfl⟩
  | configuration _ hi => simp [(configuration_kind hi).2.2] at hlinear
  | read _ _ x _ hx =>
    obtain ⟨-, rfl⟩ := hx
    obtain ⟨_, _, _, _, _, _, hread⟩ := finish_execRead_frame params x.page x.offset x.dbg x.pc (slotFilled params i s)
    rw [readAccess, hread]
    exact hfilled
  | write _ _ x _ hx =>
    obtain ⟨hx, rfl⟩ := hx
    obtain ⟨_, _, _, _, _, _, hwrite⟩ :=
      finish_execWrite_frame params (hpage x hx) x.offset x.data x.dbg x.pc (slotFilled params i s)
    rw [writeAccess, hwrite]
    exact hfilled

/-! ### One store for all paths (R84, R119, R252, R266(b)) -/

/-- A read that reaches the store, by its response alone. -/
theorem exec_read_rsp {j : Instr} {t : State} {y : Access} (hj : isAccessRead j = true) (hrun : t.run = .running)
    (ht : transparent params t) (hy : accessOf params j t = some y) (hreaches : reachesStore y t) :
    ∃ u, exec j t = .next u ∧ u.rsp = some (0x00#8 ++ memRead params y.target t) ∧ u.mem = t.mem :=
  ⟨_, readAnswersStoredByte j t y hj hrun ht hy hreaches, rfl, slotFilled_mem params j t⟩

/-- An operation makes the same access in a state with the same registers. -/
theorem accessOf_congr {P : Params} {s t : State} (h : resolutionInputs t = resolutionInputs s) (i : Instr) :
    accessOf P i t = accessOf P i s := by
  have hwp : t.romWp = s.romWp := congrArg (fun e => e.2.1) h
  have hcpu : ∀ a v dbg pc, cpuAccess P a v dbg pc t = cpuAccess P a v dbg pc s := fun a v dbg pc => by
    rw [cpuAccess, resolveCpuPage_of_inputs h, cpuAccess]
  have hlinear : ∀ a v dbg pc, linearAccess P a v dbg pc t = linearAccess P a v dbg pc s := fun a v dbg pc => by
    rw [linearAccess, hwp, linearAccess]
  cases i with
  | cpuRead | cpuWrite | dbgCpuRead | dbgCpuWrite => exact congrArg some (hcpu _ _ _ _)
  | flatRead | flatWrite | dmaListRead | dmaSrcRead | dmaSrcWrite | dmaTgtRead | dmaTgtWrite | dbgLinRead | dbgLinWrite =>
    exact hlinear _ _ _ _
  | _ => rfl

/-- The state after an access that leaves the registers alone is ready for the next one: it runs, with a transparent cache
and the same resolutions. -/
structure ReadyLike (s t : State) : Prop where
  run : t.run = .running
  transparent : transparent params t
  inputs : resolutionInputs t = resolutionInputs s

theorem readyLike_respond {s : State} (i : Instr) (hrun : s.run = .running) (ht : transparent params s) (st : Status)
    (v : Byte) (m : List Host.Cell) : ReadyLike s (respond st v { slotFilled params i s with mem := m }) where
  run := (slotFilled_run params i s).trans hrun
  transparent := transparent_slotFilled i ht
  inputs := by simp [resolutionInputs]

theorem ReadyLike.priv {s t : State} (h : ReadyLike s t) : t.priv = s.priv := congrArg (fun e => e.2.2.2.2.2) h.inputs

/-- Settles O46: the write stores at a canonical address, and a read of that canonical address, in the state after,
finds the byte there. -/
theorem writtenByteIsSeenOnEveryPath : Obligations.WrittenByteIsSeenOnEveryPath := by
  intro i j s x y hi hj hrun ht hx hy hstore hreaches hcanon
  have hready : ReadyLike s (respond .ok 0x00#8 (memWrite params x.target x.data (slotFilled params i s))) :=
    readyLike_respond i hrun ht .ok 0x00#8 _
  obtain ⟨u, hu, hrsp, -⟩ := exec_read_rsp hj hready.run hready.transparent ((accessOf_congr hready.inputs j).trans hy)
    ((reachesStore_congr hready.priv y).2 hreaches)
  refine ⟨_, u, exec_write_of_mayStore hi hrun ht hx hstore, hu, ?_⟩
  rw [hrsp, memRead_respond_memWrite params y.target x.target x.data 0x00#8 .ok (slotFilled_mem params i s), if_pos hcanon]

/-- The byte of a response is what was put into it (R104). -/
theorem rdataOf_ok (v : Byte) : rdataOf (0x00#8 ++ v) = v := by
  unfold rdataOf
  grind

/-- `COPY_BYTE` once its read has answered. -/
theorem copyByte_of_read {src dst : WideAddr} {pc : CpuPc} {s t : State} {v : Byte}
    (hread : exec (.dmaSrcRead src pc) s = .next t) (hrsp : t.rsp = some (0x00#8 ++ v)) :
    copyByte src dst pc s = exec (.dmaTgtWrite dst v pc) t := by
  simp only [copyByte, hread, hrsp, rdataOf_ok]

/-- The access of a linear address is the same for every byte. -/
theorem linearAccess_data {P : Params} {a : WideAddr} {v : Byte} {dbg : Bool} {pc : CpuPc} {s : State} {x : Access}
    (h : linearAccess P a v dbg pc s = some x) (w : Byte) : linearAccess P a w dbg pc s = some { x with data := w } := by
  obtain ⟨hinside, rfl⟩ := linearAccess_some h
  exact if_pos (of_decide_eq_true hinside)

/-- Settles O49: the read answers the source's byte and leaves the store; the write puts that byte at the target. -/
theorem copyByteCopies : Obligations.CopyByteCopies := by
  intro s src dst pc x y hrun ht hx hy hreaches hstore
  have hready : ReadyLike s (respond .ok (memRead params x.target s) (slotFilled params (.dmaSrcRead src pc) s)) :=
    readyLike_respond (.dmaSrcRead src pc) hrun ht .ok _ (slotFilled params (.dmaSrcRead src pc) s).mem
  have hmem := fun l => memRead_congr params (slotFilled_mem params (.dmaSrcRead src pc) s) l
  obtain ⟨t, hwrite, heq, htarget, hothers⟩ := writeStoresByte (.dmaTgtWrite dst (memRead params x.target s) pc) _
    { y with data := memRead params x.target s } rfl hready.run hready.transparent
    ((accessOf_congr hready.inputs _).trans (linearAccess_data hy _)) ((mayStore_congr hready.priv y).2 hstore)
  refine ⟨t, (copyByte_of_read ?_ rfl).trans hwrite, by rw [heq], htarget, fun l hl => (hothers l hl).trans (hmem l)⟩
  exact readAnswersStoredByte (.dmaSrcRead src pc) s x rfl hrun ht hx hreaches

/-! ### The CPU's round trip (R252) -/

/-- R217: what has the zero-page handler is page 0 outside the map, whatever the bank policy. -/
theorem resolveCpuPage_zp_iff {P : Params} {s : State} {p : PageNo} :
    (resolveCpuPage P s p).handler = .zp ↔ mapEntry s.map (pageBlock p) = none ∧ p = 0#8 := by
  constructor
  · intro h
    unfold resolveCpuPage at h
    split at h
    · exact absurd h (resolveLinearPage_ne_zp _ _ _)
    · next hentry =>
      split at h
      · next hzero => exact ⟨hentry, hzero⟩
      · split at h
        · unfold resolveBanked at h
          split at h
          · exact absurd h (resolveLinearPage_ne_zp _ _ _)
          · exact absurd h (resolveLinearPage_ne_zp _ _ _)
          · cases h
        · exact absurd h (resolveLinearPage_ne_zp _ _ _)
  · rintro ⟨hentry, rfl⟩
    rw [resolveCpuPage_zero P hentry]
    rfl

/-- The two operations, run one after the other, and the response of the second. -/
def RoundTrip (s : State) (a : CpuAddr) (v : Byte) (pc pc' : CpuPc) (r : Response) : Prop :=
  ∃ t u, exec (.cpuWrite a v pc) s = .next t ∧ exec (.cpuRead a pc') t = .next u ∧ u.rsp = some r

section
variable {s : State} {a : CpuAddr} {v : Byte} {pc pc' : CpuPc} (hrun : s.run = .running) (ht : transparent params s)
include hrun ht

theorem roundTrip_of_mayStore (h : mayStore (cpuAccess params a v false pc s) s) :
    RoundTrip s a v pc pc' (0x00#8 ++ v) :=
  writtenByteIsSeenOnEveryPath (.cpuWrite a v pc) (.cpuRead a pc') s _ (cpuAccess params a 0#8 false pc' s) rfl rfl hrun ht
    rfl rfl h h.1 rfl

theorem roundTrip_of_port (hw : pagesWf s) (hzp : (cpuAccess params a v false pc s).page.handler = .zp) {sel : PortReg}
    (ho : cpuOffset a = portOffset sel) : RoundTrip s a v pc pc' (0x00#8 ++ v) := by
  have hwrite := exec_write_of_port (i := .cpuWrite a v pc) rfl hrun ht rfl hzp ho
  have hcache := cacheOk_execAt ⟨hw, ht⟩ ((execAt_params _ _).trans hwrite)
  refine ⟨_, _, hwrite, readOfPortAnswersRegister (.cpuRead a pc') _ _ v rfl ?_ hcache.2 rfl ?_ ?_, rfl⟩
  · simpa using hrun
  · rw [cpuAccess, resolveCpuPage_zp_iff] at hzp ⊢
    simpa using hzp
  · cases sel
    · exact .inl ⟨ho, rfl⟩
    · exact .inr ⟨ho, rfl⟩

/-- After a dropped write the read is made as it would have been before. -/
theorem roundTrip_of_dropped {r : Response}
    (hdropped : (cpuAccess params a v false pc s).page.handler = .romRo ∨ seesDummy (cpuAccess params a v false pc s) s)
    (hread : ∀ t, ReadyLike s t → t.mem = s.mem → ∃ u, exec (.cpuRead a pc') t = .next u ∧ u.rsp = some r) :
    RoundTrip s a v pc pc' r := by
  obtain ⟨u, hu, hrsp⟩ := hread _ (readyLike_respond (.cpuWrite a v pc) hrun ht .ok 0x00#8
    (slotFilled params (.cpuWrite a v pc) s).mem) (slotFilled_mem params (.cpuWrite a v pc) s)
  exact ⟨_, u, forbiddenWriteIsDropped (.cpuWrite a v pc) s _ rfl hrun ht rfl hdropped, hu, hrsp⟩

end

/-- Settles O47: in each case the two operations are known, and there is one run of them. -/
theorem cpuRoundTrip : Obligations.CpuRoundTrip := by
  intro s a v pc pc' hrun ht hw
  obtain ⟨t, hwrite, -⟩ := exists_effect params (.cpuWrite a v pc) s
  obtain ⟨u, hread, -⟩ := exists_effect params (.cpuRead a pc') t
  rw [execAt_params] at hwrite hread
  have answer : ∀ r, RoundTrip s a v pc pc' r → u.rsp = some r := by
    rintro r ⟨t', u', ht', hu', hrsp⟩
    rw [hwrite] at ht'
    cases ht'
    rw [hread] at hu'
    cases hu'
    exact hrsp
  refine ⟨t, u, hwrite, hread, fun hseen => answer _ ?_, fun hrom => answer _ ?_, fun hdummy => answer _ ?_⟩
  · by_cases hstore : mayStore (cpuAccess params a v false pc s) s
    · exact roundTrip_of_mayStore hrun ht hstore
    · have hzp := hseen.resolve_left hstore
      by_cases hport : ∃ sel, cpuOffset a = portOffset sel
      · obtain ⟨sel, ho⟩ := hport
        exact roundTrip_of_port hrun ht hw hzp ho
      · refine absurd ⟨.inr (.inr (.inr (.inr ⟨hzp, ?_, ?_⟩))), by simp [hzp]⟩ hstore
        · exact fun h => hport ⟨.ddr, h⟩
        · exact fun h => hport ⟨.data, h⟩
  · refine roundTrip_of_dropped hrun ht (.inl hrom) fun t hready hmem => ?_
    obtain ⟨u, hu, hrsp, -⟩ := exec_read_rsp (j := .cpuRead a pc') rfl hready.run hready.transparent
      (accessOf_congr hready.inputs _) (.inr (.inr (.inl hrom)))
    exact ⟨u, hu, hrsp.trans (by rw [memRead_congr params hmem]; rfl)⟩
  · refine roundTrip_of_dropped hrun ht (.inr hdummy) fun t hready _ => ?_
    exact ⟨_, readInNormalModeSeesDummy (.cpuRead a pc') t _ rfl hready.run hready.transparent
      (accessOf_congr hready.inputs _) ((seesDummy_congr hready.priv _).2 hdummy), rfl⟩

end Sys2Proof.AccessProofs
end

section
/-! What each operation cannot do: the registers it does not write (R23 to R29), the halts (R280, R282, R284, R290), the
silence (R284); the inhibit bit over sequences (R200), whole pages under the remap (R198(a)) and the policy while privileged
(R167). -/

namespace Sys2Proof.MachineProofs

open Sys2Proof Sys2Proof.Machine Sys2Proof.AccessLaws Sys2Proof.TransparencyProofs Sys2Proof.StoreProofs
  Sys2Proof.ExtendedMapProofs Sys2Proof.ExceptionProofs

/-! ### Policy and remap -/

/-- Settles O20: `romvis` enters the policy through `romvis_eff`, which is 0 while privileged. -/
theorem privilegeForcesRomvisInactive : Obligations.PrivilegeForcesRomvisInactive := by
  intro P ddr data rv z
  have heff : romvisEff rv true = romvisEff 0#4 false := rfl
  rw [bankView, heff, bankView]

/-- With an aligned offset the 20-bit sum does not carry out of the page's low byte (R193, R197). -/
theorem mapTranslate_page_toNat (mb : Byte) {off : BitVec 20} (p : PageNo) (o : Byte) (h : off.extractLsb' 0 8 = 0#8) :
    (mapTranslate mb off (p ++ o)).toNat = (mapTranslate mb off (pageAddr p)).toNat + o.toNat := by
  have haligned : off.toNat % 256 = 0 := by simpa [BitVec.extractLsb'_toNat] using congrArg BitVec.toNat h
  have hoff := off.isLt
  have hp := p.isLt
  have ho := o.isLt
  rw [translationStaysInMegabyte, translationStaysInMegabyte, pageAddr, toNat_append_add, toNat_append_add]
  simp only [BitVec.toNat_ofNat]
  omega

/-- Settles O23: the two sides agree as numbers, and no sum of a page's base and an offset wraps (R133). -/
theorem translationKeepsPagesWhole : Obligations.TranslationKeepsPagesWhole := by
  intro mb off p o h
  have hsum := mapTranslate_page_toNat mb p o h
  refine ⟨BitVec.eq_of_toNat_eq ?_, hsum⟩
  rw [hsum]
  exact (atOffset_toNat (mapTranslate_aligned mb h p) o).symm

/-! ### The inhibit bit (R200) -/

/-- A `MAP_APPLY` on a running block sets the bit and leaves the block running. -/
theorem exists_exec_mapApply {s : State} (hrun : s.run = .running) (a x y z : Byte) :
    ∃ t, exec (.mapApply a x y z) s = .next t ∧ t.run = .running ∧ t.irqInhibit = true :=
  ⟨_, exec_mapApply hrun a x y z, hrun, rfl⟩

/-- A run of `MAP_APPLY` operations leaves the bit set, or as it was when the run is empty. -/
theorem exists_execAll_mapApply (l : List (Byte × Byte × Byte × Byte)) : ∀ s : State, s.run = .running →
    ∃ t, execAll (l.map fun e => .mapApply e.1 e.2.1 e.2.2.1 e.2.2.2) s = .next t ∧ t.run = .running ∧
      (l ≠ [] ∨ s.irqInhibit = true → t.irqInhibit = true) := by
  induction l with
  | nil => exact fun s hrun => ⟨s, rfl, hrun, fun h => h.resolve_left (absurd rfl)⟩
  | cons e l ih =>
    intro s hrun
    obtain ⟨u, hu, hrun', hset⟩ := exists_exec_mapApply hrun e.1 e.2.1 e.2.2.1 e.2.2.2
    obtain ⟨t, ht, hrun'', hkept⟩ := ih u hrun'
    refine ⟨t, ?_, hrun'', fun _ => hkept (.inr hset)⟩
    rw [List.map_cons, execAll, hu]
    exact ht

/-- Settles O31: the commit clears the bit whatever the number of calls before it, and leaves the map. -/
theorem oneCommitReleasesAllApplies : Obligations.OneCommitReleasesAllApplies := by
  intro l s hl hrun
  obtain ⟨t, ht, hrun', hset⟩ := exists_execAll_mapApply l s hrun
  exact ⟨t, _, ht, hset (.inl hl), exec_mapCommit hrun', rfl, rfl⟩

/-! ### The configuration registers and their writers (R23 to R29) -/

/-- The configuration registers. -/
def controlRegisters (s : State) : Byte × Byte × BitVec 4 × Bool × Layout × Bool × MapConfig × Bool :=
  (s.portDdr, s.portData, s.romvis, s.priv, s.ioLayout, s.romWp, s.map, s.irqInhibit)

/-- Each register that differs has a writer of its own in the operation; `port` is what a change of a port register comes
from. -/
def WritersOnly (i : Instr) (s t : State) (port : PortReg → Prop) : Prop :=
  (t.romvis ≠ s.romvis → ∃ v, i = .romselWrite v) ∧
  (t.priv ≠ s.priv → ∃ p, i = .privSet p) ∧
  (t.ioLayout ≠ s.ioLayout → ∃ l, i = .layoutSet l) ∧
  (t.romWp ≠ s.romWp → ∃ w, i = .romwpSet w) ∧
  (t.map ≠ s.map → ∃ a x y z, i = .mapApply a x y z) ∧
  (t.irqInhibit ≠ s.irqInhibit → i = .mapCommit ∨ ∃ a x y z, i = .mapApply a x y z) ∧
  (t.portDdr ≠ s.portDdr → port .ddr) ∧
  (t.portData ≠ s.portData → port .data)

theorem writersOnly_of_same {i : Instr} {s t : State} {port : PortReg → Prop}
    (h : controlRegisters t = controlRegisters s) : WritersOnly i s t port := by
  simp only [controlRegisters, Prod.mk.injEq] at h
  obtain ⟨hddr, hdata, hromvis, hpriv, hlayout, hwp, hmap, hirq⟩ := h
  exact ⟨absurd hromvis, absurd hpriv, absurd hlayout, absurd hwp, absurd hmap, absurd hirq, absurd hddr, absurd hdata⟩

/-- The write of a port register changes that register alone. -/
theorem writersOnly_portStore {i : Instr} {s u : State} {port : PortReg → Prop} {sel : PortReg}
    (h : controlRegisters u = controlRegisters s) (hport : port sel) (P : Params) (v b : Byte) :
    WritersOnly i s (respond .ok b (portStore P sel v u)) port := by
  simp only [controlRegisters, Prod.mk.injEq] at h
  obtain ⟨hddr, hdata, hromvis, hpriv, hlayout, hwp, hmap, hirq⟩ := h
  cases sel with
  | ddr =>
    exact ⟨absurd hromvis, absurd hpriv, absurd hlayout, absurd hwp, absurd hmap, absurd hirq, fun _ => hport,
      absurd hdata⟩
  | data =>
    exact ⟨absurd hromvis, absurd hpriv, absurd hlayout, absurd hwp, absurd hmap, absurd hirq, absurd hddr,
      fun _ => hport⟩

theorem writersOnly_configured {P : Params} {i : Instr} {s : State} {port : PortReg → Prop}
    (hport : ∀ sel v, i = .portWrite sel v → port sel) : WritersOnly i s (respond .ok 0x00#8 (configured P i s)) port := by
  have hkept : ∀ {a : Type} {x : a} {b : Prop}, x ≠ x → b := fun h => absurd rfl h
  cases i with
  | portWrite sel v => exact writersOnly_portStore rfl (hport sel v rfl) P v 0x00#8
  | romselWrite rv => exact ⟨fun _ => ⟨rv, rfl⟩, hkept, hkept, hkept, hkept, hkept, hkept, hkept⟩
  | mapApply a x y z =>
    exact ⟨hkept, hkept, hkept, hkept, fun _ => ⟨a, x, y, z, rfl⟩, fun _ => .inr ⟨a, x, y, z, rfl⟩, hkept, hkept⟩
  | mapCommit => exact ⟨hkept, hkept, hkept, hkept, hkept, fun _ => .inl rfl, hkept, hkept⟩
  | privSet b =>
    exact ⟨absurd (privInvalidate_romvis b s), fun _ => ⟨b, rfl⟩, absurd (privInvalidate_ioLayout b s),
      absurd (privInvalidate_romWp b s), absurd (privInvalidate_map b s), absurd (privInvalidate_irqInhibit b s),
      absurd (privInvalidate_portDdr b s), absurd (privInvalidate_portData b s)⟩
  | layoutSet l => exact ⟨hkept, hkept, fun _ => ⟨l, rfl⟩, hkept, hkept, hkept, hkept, hkept⟩
  | romwpSet w =>
    exact ⟨absurd (romwpInvalidate_romvis w s), absurd (romwpInvalidate_priv w s), absurd (romwpInvalidate_ioLayout w s),
      fun _ => ⟨w, rfl⟩, absurd (romwpInvalidate_map w s), absurd (romwpInvalidate_irqInhibit w s),
      absurd (romwpInvalidate_portDdr w s), absurd (romwpInvalidate_portData w s)⟩
  | _ => exact writersOnly_of_same rfl

theorem controlRegisters_slotFilled (P : Params) (i : Instr) (s : State) :
    controlRegisters (slotFilled P i s) = controlRegisters s := by
  simp [controlRegisters]

/-- An access write without a linear operand is one of the two with a CPU address. -/
theorem isCpuAddressWrite_of_not_linear {i : Instr} (hi : isAccessWrite i = true) (hlinear : linearOperand i = none) :
    isCpuAddressWrite i = true := by
  cases i with
  | cpuWrite | dbgCpuWrite => rfl
  | flatWrite | dmaSrcWrite | dmaTgtWrite | dbgLinWrite => cases hlinear
  | _ => cases hi

/-- An access write changes the control registers through the port alone. -/
theorem writersOnly_write {P : Params} {i : Instr} {s : State} {x : Access} {port : PortReg → Prop}
    (hzero : ZeroPageAtZero x) (hport : ∀ sel, x.page.handler = .zp → x.offset = portOffset sel → port sel) :
    WritersOnly i s (finish (writeAccess P x (slotFilled P i s))) port := by
  have hsame := controlRegisters_slotFilled P i s
  obtain hreaches | hdummy | ⟨hzp, sel, ho⟩ | ⟨layout, a, hdevice⟩ | hunmapped := access_classes P x (slotFilled P i s)
  · by_cases hrom : x.page.handler = .romRo
    · rw [writeAccess_of_romRo hrom]
      exact writersOnly_of_same hsame
    · rw [writeAccess_of_mayStore hzero ⟨hreaches, hrom⟩]
      exact writersOnly_of_same hsame
  · rw [writeAccess_of_seesDummy hdummy]
    exact writersOnly_of_same hsame
  · rw [writeAccess_of_port hzp ho]
    exact writersOnly_portStore hsame (hport sel hzp ho) P _ _
  · rw [writeAccess_of_device hdevice]
    exact writersOnly_of_same hsame
  · obtain ⟨_, _, _, _, _, hframe⟩ := finish_unmapped_frame x.target x.pc true 0x00#8 (slotFilled P i s)
    rw [writeAccess_of_unmapped hunmapped, hframe]
    exact writersOnly_of_same hsame

/-- What may change a port register (R23). -/
def PortWriter (i : Instr) (s : State) (sel : PortReg) : Prop :=
  (∃ v, i = .portWrite sel v) ∨ isCpuAddressWrite i = true ∧
    ∃ x, accessOf params i s = some x ∧ x.page.handler = .zp ∧ x.offset = portOffset sel

/-- Settles O32: a configuration operation writes its own register, an access write the port alone, and nothing else writes
any. -/
theorem registersChangeOnlyByTheirWriters : Obligations.RegistersChangeOnlyByTheirWriters := by
  intro i s t ht h
  change WritersOnly i s t (PortWriter i s)
  cases effect_of_exec_transparent ht h with
  | halted | impossible => exact writersOnly_of_same rfl
  | configuration => exact writersOnly_configured fun sel v hi => .inl ⟨v, hi⟩
  | read _ _ x _ hx =>
    obtain ⟨-, rfl⟩ := hx
    obtain ⟨_, _, _, _, _, _, hframe⟩ := finish_execRead_frame params x.page x.offset x.dbg x.pc (slotFilled params i s)
    rw [readAccess, hframe]
    exact writersOnly_of_same (controlRegisters_slotFilled params i s)
  | write _ hi x _ hx =>
    obtain ⟨hx, rfl⟩ := hx
    exact writersOnly_write (zeroPageAtZero_of_accessOf hx) fun sel hzp ho =>
      .inr ⟨isCpuAddressWrite_of_not_linear hi (linearOperand_of_zp hx hzp), x, hx, hzp, ho⟩

/-! ### The halts (R280, R282, R284, R290) -/

/-- `run` after an UnmappedAccess: as it was, or the abort of a block that asks. -/
theorem finish_unmappedAccess_run (l : LinAddr) (pc : CpuPc) (w : Bool) (v : Byte) (s : State) :
    (finish (unmappedAccess l pc w v s)).run = s.run ∨
      s.unmappedMode = .ask ∧ (finish (unmappedAccess l pc w v s)).run = .halted .abort (l.setWidth 32) pc := by
  obtain ⟨-, h⟩ | ⟨hm, -, h⟩ | ⟨-, -, h⟩ | ⟨-, -, h⟩ := unmappedAccess_cases l pc w v s <;> rw [h]
  · exact .inl rfl
  · exact .inr ⟨hm, rfl⟩
  · exact .inl rfl
  · exact .inl rfl

/-- Of `run` before and after an access: as it was, or the abort of this access. -/
def KeptOrAbortedBy (x : Access) (s t : State) : Prop :=
  t.run = s.run ∨ x.page.handler = .unmapped ∧ s.unmappedMode = .ask ∧ t.run = .halted .abort (x.target.setWidth 32) x.pc

theorem finish_readAccess_run (P : Params) (x : Access) (s : State) :
    KeptOrAbortedBy x s (finish (readAccess P x s)) := by
  unfold readAccess
  obtain ⟨_, h⟩ | ⟨_, _, h⟩ | ⟨hunmapped, h⟩ := execRead_cases P x.page x.offset x.dbg x.pc s <;> rw [h]
  · exact .inl rfl
  · exact .inl rfl
  · exact (finish_unmappedAccess_run _ _ _ _ s).imp_right fun hhalt => ⟨hunmapped, hhalt⟩

theorem finish_writeAccess_run (P : Params) (x : Access) (s : State) :
    KeptOrAbortedBy x s (finish (writeAccess P x s)) := by
  unfold writeAccess
  obtain h | ⟨-, h⟩ | ⟨-, -, -, h⟩ | ⟨-, sel, h⟩ | ⟨_, _, h⟩ | ⟨hunmapped, h⟩ :=
    execWrite_cases P x.page x.offset x.data x.dbg x.pc s <;> rw [h]
  · exact .inl rfl
  · exact .inl rfl
  · exact .inl rfl
  · exact .inl (portStore_run P sel x.data s)
  · exact .inl rfl
  · exact (finish_unmappedAccess_run _ _ _ _ s).imp_right fun hhalt => ⟨hunmapped, hhalt⟩

theorem not_isConfiguration_of_read {i : Instr} (h : isAccessRead i = true) : isConfiguration i = false :=
  Bool.eq_false_of_not_eq_true fun hi => by simp [(configuration_kind hi).1] at h

theorem not_isConfiguration_of_write {i : Instr} (h : isAccessWrite i = true) : isConfiguration i = false :=
  Bool.eq_false_of_not_eq_true fun hi => by simp [(configuration_kind hi).2.1] at h

theorem not_isConfiguration_of_linear {i : Instr} {e : WideAddr × SpecialSlot × CpuPc} (h : linearOperand i = some e) :
    isConfiguration i = false :=
  Bool.eq_false_of_not_eq_true fun hi => by simp [(configuration_kind hi).2.2] at h

/-- Settles O53: of what an operation can do, the impossible address and the aborted access alone change `run`. -/
theorem haltsHaveTwoCauses : Obligations.HaltsHaveTwoCauses := by
  intro i s t ht h hchanged
  have abort : ∀ x t, accessOf params i s = some x → KeptOrAbortedBy x (slotFilled params i s) t → t.run ≠ s.run →
      s.unmappedMode = .ask ∧ ∃ x, accessOf params i s = some x ∧ x.page.handler = .unmapped ∧
        t.run = .halted .abort (x.target.setWidth 32) x.pc := by
    intro x t hx hrun hchanged
    obtain ⟨hunmapped, hmode, hhalt⟩ := hrun.resolve_left (by simpa using hchanged)
    exact ⟨by simpa using hmode, x, hx, hunmapped, hhalt⟩
  cases effect_of_exec_transparent ht h with
  | halted => exact absurd rfl hchanged
  | configuration => exact absurd (configured_run params i s) hchanged
  | impossible _ a k pc hlinear ha =>
    exact ⟨not_isConfiguration_of_linear hlinear, .inl ⟨a, k, pc, hlinear, by simpa [inLinearSpace] using ha, rfl⟩⟩
  | read _ hi x _ hx =>
    obtain ⟨hx, rfl⟩ := hx
    exact ⟨not_isConfiguration_of_read hi, .inr (abort x _ hx (finish_readAccess_run params x _) hchanged)⟩
  | write _ hi x _ hx =>
    obtain ⟨hx, rfl⟩ := hx
    exact ⟨not_isConfiguration_of_write hi, .inr (abort x _ hx (finish_writeAccess_run params x _) hchanged)⟩

/-! ### The silence (R284) -/

/-- The mode is as it was, no choice was taken, and there is no report that was not there before. -/
def Quiet (s t : State) : Prop :=
  t.unmappedMode = s.unmappedMode ∧ t.choices = s.choices ∧
    ∀ l pc w c, Event.unmappedReport l pc w c ∈ t.events → Event.unmappedReport l pc w c ∈ s.events

theorem Quiet.refl (s : State) : Quiet s s := ⟨rfl, rfl, fun _ _ _ _ h => h⟩

/-- The event is an UnmappedAccess report. -/
def isReport : Event → Bool
  | .unmappedReport _ _ _ _ => true
  | _ => false

/-- Recording anything but a report is quiet. -/
theorem Quiet.emit {s t : State} (h : Quiet s t) {e : Event} (he : isReport e = false) :
    Quiet s (Machine.emit e t) := by
  obtain ⟨hmode, hchoices, hreports⟩ := h
  refine ⟨hmode, hchoices, fun l pc w c hmem => ?_⟩
  rw [emit_events, List.mem_append, List.mem_singleton] at hmem
  refine hreports l pc w c (hmem.resolve_right ?_)
  rintro rfl
  cases he

theorem Quiet.respond {s t : State} (h : Quiet s t) (st : Status) (v : Byte) : Quiet s (Machine.respond st v t) :=
  Quiet.emit (t := { t with rsp := some (responseWord st v) }) h rfl

theorem finish_unmappedAccess_quiet (l : LinAddr) (pc : CpuPc) (w : Bool) (v : Byte) {s : State}
    (hsilent : s.unmappedMode = .silent) : Quiet s (finish (unmappedAccess l pc w v s)) := by
  have h : unmappedAccess l pc w v s = .reply .okDummy v s := by rw [unmappedAccess, hsilent]
  rw [h]
  exact (Quiet.refl s).respond _ _

theorem finish_readAccess_quiet (P : Params) (x : Access) {s : State} (hsilent : s.unmappedMode = .silent) :
    Quiet s (finish (readAccess P x s)) := by
  unfold readAccess
  obtain ⟨_, h⟩ | ⟨layout, a, h⟩ | ⟨-, h⟩ := execRead_cases P x.page x.offset x.dbg x.pc s <;> rw [h]
  · exact (Quiet.refl s).respond _ _
  · exact (Quiet.emit (t := { s with ioAnswers := s.ioAnswers.tail }) (Quiet.refl s) rfl).respond _ _
  · exact finish_unmappedAccess_quiet _ _ _ _ hsilent

theorem finish_writeAccess_quiet (P : Params) (x : Access) {s : State} (hsilent : s.unmappedMode = .silent) :
    Quiet s (finish (writeAccess P x s)) := by
  unfold writeAccess
  obtain h | ⟨-, h⟩ | ⟨-, -, -, h⟩ | ⟨-, sel, h⟩ | ⟨_, _, h⟩ | ⟨-, h⟩ :=
    execWrite_cases P x.page x.offset x.data x.dbg x.pc s <;> rw [h]
  · exact (Quiet.refl s).respond _ _
  · exact (Quiet.refl s).respond _ _
  · exact (Quiet.refl s).respond _ _
  · have hport : Quiet s (portStore P sel x.data s) :=
      ⟨portStore_unmappedMode P sel x.data s, portStore_choices P sel x.data s, fun _ _ _ _ h =>
        portStore_events P sel x.data s ▸ h⟩
    exact hport.respond _ _
  · exact ((Quiet.refl s).emit rfl).respond _ _
  · exact finish_unmappedAccess_quiet _ _ _ _ hsilent

theorem configured_quiet (P : Params) (i : Instr) (s : State) : Quiet s (configured P i s) :=
  ⟨configured_unmappedMode P i s, configured_choices P i s, fun _ _ _ _ h => configured_events P i s ▸ h⟩

theorem mode_cases (s : State) : s.unmappedMode = .ask ∨ s.unmappedMode = .silent := by
  cases s.unmappedMode <;> simp

/-- An operation is quiet, or it is an access of a block that asks. -/
theorem quiet_or_asked {i : Instr} {s t : State} (h : exec i s = .next t) :
    Quiet s t ∨ s.unmappedMode = .ask ∧ isConfiguration i = false := by
  cases effect_of_exec h with
  | halted => exact .inl (Quiet.refl s)
  | configuration => exact .inl ((configured_quiet params i s).respond _ _)
  | impossible _ a k pc =>
    exact .inl (Quiet.emit (t := { s with run := .halted .impossible a pc, rsp := none }) (Quiet.refl s) rfl)
  | read _ hi x _ hx =>
    obtain ⟨_, _, rfl⟩ := hx
    obtain hm | hm := mode_cases s
    · exact .inr ⟨hm, not_isConfiguration_of_read hi⟩
    · exact .inl (finish_readAccess_quiet params x (s := { s with pslots := _, sslots := _ }) hm)
  | write _ hi x _ hx =>
    obtain ⟨_, _, rfl⟩ := hx
    obtain hm | hm := mode_cases s
    · exact .inr ⟨hm, not_isConfiguration_of_write hi⟩
    · exact .inl (finish_writeAccess_quiet params x (s := { s with pslots := _, sslots := _ }) hm)

/-- Settles O54: a silent block is quiet, and an operation that is not is an access of a block that asks. -/
theorem silenceLastsUntilReset : Obligations.SilenceLastsUntilReset := by
  intro i s t h
  obtain hquiet | hasked := quiet_or_asked h
  · obtain ⟨hmode, hchoices, hreports⟩ := hquiet
    exact ⟨fun hm => ⟨hmode.trans hm, hchoices, hreports⟩, absurd hmode⟩
  · exact ⟨fun hm => by simp [hasked.1] at hm, fun _ => hasked⟩

end Sys2Proof.MachineProofs
end
